-- ==== Sys2Proof/Word.lean ====
section
/-! DEFINITION. The one word type of the block: every cell, operand and table entry is a byte (20_memory.md R52, R54). -/

namespace Sys2Proof

/-- `Byte` of 00_scope.md R10. The `+8` and `-8` of R11 are `+` and `-` here, and `^` on bytes is `^^^`. -/
abbrev Byte := BitVec 8

end Sys2Proof
end

