-- ==== Sys2Proof/Config.lean ====
section
/-! DEFINITION. The implementation parameters of 00_scope.md R8 and the free values.
A parameter the spec leaves OPEN, and a value it calls a draw, is an opaque constant: nothing can be proved of its value. -/

namespace Sys2Proof

/-- The two windowing policies of generic reads (00_scope.md R8, R9). -/
inductive WindowPolicy where
  | paged8
  | unpaged21
  deriving DecidableEq, Repr

/-- `REPORT_LEN`: the two admitted lengths of the report area (00_scope.md R8, 10_state.md R22). -/
inductive ReportLen where
  | eight
  | sixteen
  deriving DecidableEq, Repr

/-- `REPORT_LEN` as a count of bytes. -/
def ReportLen.bytes : ReportLen → Nat
  | .eight => 8
  | .sixteen => 16

/-- The cipher's table pair `cs.additive[0..7]`, `cs.mask[0..7]` (10_state.md R35). -/
structure Tables where
  additive : Vector Byte 8
  mask : Vector Byte 8
  deriving DecidableEq, Repr, Inhabited

/-- The encoder's two layouts of the report: 6 bytes, with bytes 6 and 7 of the area unused, or 8 bytes
(10_state.md R22, 43_foreground.md R181). -/
inductive EncoderLayout where
  | compact
  | extended
  deriving DecidableEq, Repr, Inhabited

/-- How many bytes of the report area the layout fills. -/
def EncoderLayout.bytes : EncoderLayout → Nat
  | .compact => 6
  | .extended => 8

/-- `WINDOW_POLICY = Paged8` (00_scope.md R8, R9). Notes: assumption 9. -/
def Config.windowPolicy : WindowPolicy := .paged8

/-- `REPORT_LEN = 8` (00_scope.md R8, 10_state.md R22). Notes: assumption 10. -/
def Config.reportLen : ReportLen := .eight

/-- `REPORT_MASKED = true` (00_scope.md R8). Notes: assumption 11. -/
def Config.reportMasked : Bool := true

/-- `ID_BYTES` (00_scope.md R8, 10_state.md R27). -/
def Config.idBytes : Vector Byte 6 := #v[0x00, 0x00, 0xA4, 0x20, 0x01, 0x01]

/-- `HAS_REFRESH`, OPEN (00_scope.md R8, 41_bus_read.md R133). Notes: assumption 5. -/
opaque Config.hasRefresh : Bool

/-- `KEY_SCHEDULE`, OPEN: a total function of the 16 key bytes and of nothing else (42_cipher.md R164). Notes: assumption 3. -/
opaque Config.keySchedule : Vector Byte 16 → Tables

/-- `CAL_DATA`, OPEN: the 14 calibration bytes (10_state.md R23). Notes: assumption 4. -/
opaque Config.calData : Vector Byte 14

/-- `MODE_REG_ADDR`, OPEN: only F's encoder reads the register there (10_state.md R29, 43_foreground.md R181(b)). Notes: assumption 7. -/
opaque Config.modeRegAddr : Byte

/-- How far `MAX_WRITE_LEN` lies above its least value 2; OPEN. Notes: assumption 6. -/
opaque Config.maxWriteLenAboveTwo : Nat

/-- `MAX_WRITE_LEN`, OPEN and at least 2 (00_scope.md R8, 30_encoding.md R78). It counts the data bytes of a write,
the register address among them. Notes: assumption 6. -/
def Config.maxWriteLen : Nat := Config.maxWriteLenAboveTwo + 2

/-- What F has encoded as the centre report: its layout and its bytes, of which the layout fills the first 6 or all 8
(43_foreground.md R181, R185). -/
structure CentreReport where
  layout : EncoderLayout
  bytes : Vector Byte 8
  deriving DecidableEq, Repr

/-- Which layout each value of the mode register selects (43_foreground.md R181(b)); a free value, since the source does not give the
register's values. Notes: assumption 30. -/
opaque Config.encoderLayout : (mode : Byte) → EncoderLayout

/-- The bytes of the centre report (43_foreground.md R185): a free value of CAL_DATA, of the calibration cells 0x20 to 0x3F (the block
and its copy) and of the mode register. The spec does not say whether "calibration data" names CAL_DATA, the block or the copy, and
this function may use any of them. Notes: assumptions 30, 33. -/
opaque Config.centreBytes : (calData : Vector Byte 14) → (cells : Vector Byte 32) → (mode : Byte) → Vector Byte 8

/-- When F stores each byte of the centre report: a byte with a lower value goes first, and of two equal ones the byte of the lower
address. A free value (20_memory.md R60). Notes: assumption 30. -/
opaque Config.centreTurn : Fin 8 → Nat

/-- `PAD`: the free value of the `n`-th byte a master clocks past a response (30_encoding.md R72). Notes: assumption 8. -/
opaque Config.pad : Nat → Byte

/-- What the tables hold while they are `invalid`: a free value, which no reachable state reads (10_state.md R35).
Notes: assumption 16. -/
opaque Config.invalidTables : Tables

end Sys2Proof
end

