-- ==== Sys2Proof/Syntax.lean ====
section
/-! DEFINITION. The operations of the block (spec/opcode_table.json, one constructor a row), the bus events the transport
delivers and the steps of the foreground agent. -/

namespace Sys2Proof

/-- One access of a foreground critical section: a read of the register map, or a store (43_foreground.md R182). -/
inductive FgAccess where
  | read (a : Byte)
  | store (a v : Byte)
  deriving DecidableEq, Repr

/-- The operations of spec/opcode_table.json. -/
inductive Instr where
  /-- `WZ`, zero-length write (40_bus_write.md R100). -/
  | wz
  /-- `SEL a`, address select (40_bus_write.md R102). -/
  | sel (a : Byte)
  /-- `WR a, v[0..n-1]`, data write of raw bytes (40_bus_write.md R104). -/
  | wr (a : Byte) (v : List Byte)
  /-- `RD_REPORT` (41_bus_read.md R134). -/
  | rdReport
  /-- `RD_ID` (41_bus_read.md R135). -/
  | rdId
  /-- `RD_GEN`, the windowed read of the policy Paged8 (41_bus_read.md R136). -/
  | rdGen
  /-- `RD_GEN_U`, the generic read of the policy Unpaged21 (41_bus_read.md R138). -/
  | rdGenU
  /-- `KEYSETUP` (42_cipher.md R163). -/
  | keysetup
  /-- `FG_STORE a, v` (43_foreground.md R180). -/
  | fgStore (a v : Byte)
  /-- `FG_CS`, a critical section (43_foreground.md R182). -/
  | fgCs (body : List FgAccess)
  /-- `FG_REFRESH` (43_foreground.md R184). -/
  | fgRefresh
  /-- `INIT` (70_reset_and_hazards.md R230). -/
  | init
  deriving DecidableEq, Repr

/-- An event the transport delivers (30_encoding.md R71, R72). -/
inductive BusEvent where
  /-- `Write(d[0..n-1])`, `n ≥ 0`. -/
  | write (d : List Byte)
  /-- `Read`, with the number of bytes the master clocks; `none` is the default of 30_encoding.md R79, exactly the response.
  The count is no operand: the engine never sees it (30_encoding.md R72). Notes: assumption 27. -/
  | read (clocks : Option Nat)
  deriving DecidableEq, Repr

/-- One step of the foreground agent (20_memory.md R59; 43_foreground.md R180, R182, R184). -/
inductive FgOp where
  | store (a v : Byte)
  | cs (body : List FgAccess)
  | refresh
  deriving DecidableEq, Repr

/-- The operation a foreground step runs (30_encoding.md R76). -/
def FgOp.toInstr : FgOp → Instr
  | .store a v => .fgStore a v
  | .cs body => .fgCs body
  | .refresh => .fgRefresh

/-- What the outside world does next. Notes: assumption 18. -/
inductive Input where
  /-- A transaction ends (write) or begins (read) while F is between two steps (60_exceptions.md R203). -/
  | arrive (e : BusEvent)
  /-- F takes its next step for the centre report (it encodes the report, then stores it byte by byte), and the events of `during`
  arrive while it runs; once the report is stored, only the events arrive (43_foreground.md R185). Notes: assumption 30. -/
  | centre (during : List BusEvent)
  /-- F takes a step, and the events of `during` arrive while it runs: they stay pending until it ends
  (60_exceptions.md R203, 43_foreground.md R182). While the centre report is not yet stored, F's steps for it go first
  (43_foreground.md R185). -/
  | foreground (op : FgOp) (during : List BusEvent)
  deriving DecidableEq, Repr

end Sys2Proof
end

