-- ==== Sys2Proof/WellFormed.lean ====
section
/-! DEFINITION. Which operands the spec gives each operation, as Bool checks. -/

namespace Sys2Proof

/-- An address of the report area, `a < REPORT_LEN` (43_foreground.md R180). -/
def inReportArea (a : Byte) : Bool := decide (a.toNat < Config.reportLen.bytes)

/-- An access of a critical section: F may read every register and stores only to the report area
(43_foreground.md R182, R183). -/
def FgAccess.wellFormed : FgAccess → Bool
  | .read _ => true
  | .store a _ => inReportArea a

/-- The operands of a foreground step (43_foreground.md R180, R182, R183). -/
def FgOp.wellFormed : FgOp → Bool
  | .store a _ => inReportArea a
  | .cs body => body.all FgAccess.wellFormed
  | .refresh => true

/-- No write longer than `MAX_WRITE_LEN` reaches the engine (30_encoding.md R78, 60_exceptions.md R215). -/
def BusEvent.wellFormed : BusEvent → Bool
  | .write d => decide (d.length ≤ Config.maxWriteLen)
  | .read _ => true

/-- The operands of an operation: a data write carries 1 to `MAX_WRITE_LEN` - 1 raw bytes (40_bus_write.md R104), and F stores
only to the report area. Every other operand value is legal (30_encoding.md R77). -/
def Instr.wellFormed : Instr → Bool
  | .wz => true
  | .sel _ => true
  | .wr _ v => decide (v ≠ []) && decide (v.length + 1 ≤ Config.maxWriteLen)
  | .rdReport => true
  | .rdId => true
  | .rdGen => true
  | .rdGenU => true
  | .keysetup => true
  | .fgStore a _ => inReportArea a
  | .fgCs body => body.all FgAccess.wellFormed
  | .fgRefresh => true
  | .init => true

/-- A well-formed entry of the input list. -/
def Input.wellFormed : Input → Bool
  | .arrive e => e.wellFormed
  | .centre during => during.all BusEvent.wellFormed
  | .foreground op during => op.wellFormed && during.all BusEvent.wellFormed

end Sys2Proof
end

