-- ==== Sys2Proof/Decode.lean ====
section
/-! DEFINITION. From the bytes of a bus transaction to a bus event (30_encoding.md R70), from an event to an operation
(30_encoding.md R75), and the encoder back. -/

namespace Sys2Proof

/-- Why bytes on the bus give no operation of this block. -/
inductive DecodeError where
  /-- There is no address byte: no transaction. -/
  | noAddressByte
  /-- The address byte names another slave; the transport ignores it (20_memory.md R50). -/
  | otherSlave (slave : BitVec 7)
  /-- Data bytes from the master after a read address byte: a read carries none (30_encoding.md R72). -/
  | readCarriesData
  /-- More data bytes than `MAX_WRITE_LEN`: no such event reaches the engine (30_encoding.md R78, 93_implementation_defined.md I12). -/
  | writeTooLong
  deriving DecidableEq, Repr

/-- `SLAVE_ADDR` (00_scope.md R3, R8). -/
def slaveAddr : BitVec 7 := 0x52

/-- The address byte: the slave address above the direction bit, 0 for write and 1 for read (30_encoding.md R70).
Notes: assumption 14. -/
def addressByte (slave : BitVec 7) (read : Bool) : Byte := slave ++ BitVec.ofBool read

/-- The seven address bits of an address byte (30_encoding.md R70). -/
def slaveOf (b : Byte) : BitVec 7 := b.extractLsb' 1 7

/-- The direction bit of an address byte (30_encoding.md R70). -/
def isRead (b : Byte) : Bool := b.getLsbD 0

/-- The transport's part: the event that a transaction on the bus delivers to the engine (30_encoding.md R70 to R72). -/
def transport : List Byte → Except DecodeError BusEvent
  | [] => .error .noAddressByte
  | b :: d =>
    if slaveOf b ≠ slaveAddr then .error (.otherSlave (slaveOf b))
    else if isRead b then
      match d with
      | [] => .ok (.read none)
      | _ :: _ => .error .readCarriesData
    else .ok (.write d)

/-- The read dispatch: 0x00 first, then 0xFA, then every other address by the policy (41_bus_read.md R131; 30_encoding.md R75). -/
def selectRead (policy : WindowPolicy) (address : Byte) : Instr :=
  if address = 0x00 then .rdReport
  else if address = 0xFA then .rdId
  else
    match policy with
    | .paged8 => .rdGen
    | .unpaged21 => .rdGenU

/-- The event map of 30_encoding.md R75: the direction, the byte count and, for a read, `cur.address` select the operation. -/
def decodeEvent (policy : WindowPolicy) (address : Byte) : BusEvent → Except DecodeError Instr
  | .write [] => .ok .wz
  | .write [a] => .ok (.sel a)
  | .write (a :: b :: v) =>
    if (a :: b :: v).length ≤ Config.maxWriteLen then .ok (.wr a (b :: v)) else .error .writeTooLong
  | .read _ => .ok (selectRead policy address)

/-- The operation that a transaction's bytes, its address byte first, select under a policy and a cursor address. -/
def decode (policy : WindowPolicy) (address : Byte) (bytes : List Byte) : Except DecodeError Instr :=
  match transport bytes with
  | .ok e => decodeEvent policy address e
  | .error r => .error r

/-- The bytes of the transaction that selects an operation; `none` for the internal operations, which no bus transaction
encodes (30_encoding.md R76). -/
def encode : Instr → Option (List Byte)
  | .wz => some [addressByte slaveAddr false]
  | .sel a => some [addressByte slaveAddr false, a]
  | .wr a v => some (addressByte slaveAddr false :: a :: v)
  | .rdReport => some [addressByte slaveAddr true]
  | .rdId => some [addressByte slaveAddr true]
  | .rdGen => some [addressByte slaveAddr true]
  | .rdGenU => some [addressByte slaveAddr true]
  | .keysetup => none
  | .fgStore _ _ => none
  | .fgCs _ => none
  | .fgRefresh => none
  | .init => none

/-- Whether the policy and the cursor address select the operation among those of its wire encoding (30_encoding.md R75). -/
def Instr.selectedBy (policy : WindowPolicy) (address : Byte) : Instr → Bool
  | .rdReport => address == 0x00
  | .rdId => address == 0xFA
  | .rdGen => policy == .paged8 && address != 0x00 && address != 0xFA
  | .rdGenU => policy == .unpaged21 && address != 0x00 && address != 0xFA
  | .wz => true
  | .sel _ => true
  | .wr _ _ => true
  | .keysetup => true
  | .fgStore _ _ => true
  | .fgCs _ => true
  | .fgRefresh => true
  | .init => true

/-- The bytes of a number whose bit 0 is the least significant bit of the first byte. -/
def wordBytes (nbits w : Nat) : List Byte :=
  (List.range (nbits / 8)).map fun i => BitVec.ofNat 8 (w >>> (8 * i))

/-- `cur.address` as a table word is decoded: the value 10_state.md R41 gives it at reset. Notes: assumption 15. -/
def tableAddress : Byte := 0x00

/-- The operation the decoder reads from the transaction whose bytes are the number's. Notes: assumption 15. -/
def decodeTableWord (nbits w : Nat) : Option Instr :=
  match decode Config.windowPolicy tableAddress (wordBytes nbits w) with
  | .ok i => some i
  | .error _ => none

end Sys2Proof
end

