-- ==== Sys2Proof/Machine/State.lean ====
section
/-! DEFINITION. The state of the block, the reasons a step can stop, and the state after reset. -/

namespace Sys2Proof.Machine

/-- The register map: the cells that differ from their reset contents, addresses strictly rising (10_state.md R20). -/
abbrev Memory := List Host.Cell

/-- Whether initialisation has run: the transport answers, and F runs, only after it (70_reset_and_hazards.md R231). -/
inductive Phase where
  | beforeInit
  | running
  deriving DecidableEq, Repr

/-- The whole machine. The first seven fields are the state of 10_state.md R43; INVENTORY.md lists each field's rule. -/
structure State where
  /-- `reg[0x00..0xFF]` (10_state.md R20). -/
  mem : Memory
  /-- `cur.address` (10_state.md R30). -/
  address : Byte
  /-- `cur.new_address` (10_state.md R31). -/
  newAddress : Bool
  /-- `cur.offset`, a natural number (10_state.md R32). -/
  offset : Nat
  /-- `bpos`, the report window pointer (10_state.md R33). -/
  bpos : Nat
  /-- `cs.enabled` (10_state.md R34). -/
  enabled : Bool
  /-- `cs.additive` and `cs.mask`; `none` is `invalid` (10_state.md R35). -/
  tables : Option Tables
  /-- The response sequence of the last read request (10_state.md R37). Notes: assumption 24. -/
  response : List Byte
  /-- The `refresh` events that F has not consumed (41_bus_read.md R133, 43_foreground.md R184). Notes: assumption 17. -/
  refreshPending : Nat
  /-- The centre report as F encoded it; `none` until F has read the mode register for it (43_foreground.md R181(b), R185).
  Notes: assumption 30. -/
  centre : Option CentreReport
  /-- How many of F's first steps, the stores of the centre report, are done (43_foreground.md R185). Notes: assumption 30. -/
  centreDone : Nat
  /-- The bus events that wait for their handler, in wire order (60_exceptions.md R203, R204). -/
  pending : List BusEvent
  /-- Whether initialisation has run (70_reset_and_hazards.md R231). -/
  phase : Phase
  /-- The MODEL's own: what the outside world still does. Notes: assumption 18. -/
  inputs : List Input
  /-- The MODEL's own: what the master received, one entry per read transaction (60_exceptions.md R215). -/
  received : List (List Byte)
  /-- The MODEL's own: how many PAD bytes have been drawn. Notes: assumption 8. -/
  padDraws : Nat
  deriving DecidableEq, Repr

/-- There is no fault: "Every operation is total", and a model of the block "has no fault outcome for any bus event or
foreground step" (60_exceptions.md R200). So this type has no constructor, and nothing raises one. -/
inductive Fault where
  deriving DecidableEq, Repr

/-- Why a step gives no next state. -/
inductive Refusal where
  /-- An operation without a meaning; no arm of `exec` answers it now. Safe: the run stops. -/
  | notModelled (mnemonic : String)
  /-- Raised by a bus step on a pending write of more than `MAX_WRITE_LEN` bytes: no such event reaches the engine
  (30_encoding.md R78, 93_implementation_defined.md I12). The stop is safe; that the hardware has no such run is assumption 6. -/
  | notAnEvent (e : DecodeError)
  /-- Raised by a foreground step that stores outside the report area: F has no such step (43_foreground.md R180, R183).
  The stop is safe; that the hardware's F has no such step is assumption 20. -/
  | notAForegroundStep
  deriving DecidableEq, Repr

/-- The machine after reset, which is the machine after initialisation (10_state.md R40, R41, R42): no cell is listed, so every
cell reads as its reset contents. The fields R40 to R42 do not name hold nothing yet. Notes: assumptions 1, 2, 22, 26, 30. -/
def State.reset : State where
  mem := []
  address := 0x00
  newAddress := true
  offset := 0
  bpos := 0
  enabled := false
  tables := none
  response := []
  refreshPending := 0
  centre := none
  centreDone := 0
  pending := []
  phase := .running
  inputs := []
  received := []
  padDraws := 0

end Sys2Proof.Machine
end

