-- ==== Sys2Proof/Machine/Ops.lean ====
section
/-! DEFINITION. The named operations over the register map, the cursor, the cipher state and the queues.
Every access of the state goes through one of these. The block takes no exception (60_exceptions.md R200), and entering and
leaving a bus handler changes no field (R206, R207), so there is no exception entry and no return among them. -/

namespace Sys2Proof.Machine

/-! ### The register map -/

/-- `s` of 10_state.md R23: the sum of the 14 calibration bytes mod 256. -/
def calSum : Byte := BitVec.ofNat 8 (Config.calData.toList.map BitVec.toNat).sum

/-- Byte `k` of the calibration block: 14 data bytes, then the checksum pair (10_state.md R23). -/
def calByte (k : Nat) : Byte :=
  if h : k < 14 then Config.calData[k]
  else if k = 14 then calSum + 0x55
  else calSum + 0xAA

/-- The reset contents of a cell, which is what an unlisted address reads as (10_state.md R40). Notes: assumption 26. -/
def resetByte (a : Nat) : Byte :=
  if 0x20 ≤ a ∧ a < 0x30 then calByte (a - 0x20)
  else if 0x30 ≤ a ∧ a < 0x40 then calByte (a - 0x30)
  else if h : 0xFA ≤ a ∧ a < 0x100 then Config.idBytes[a - 0xFA]
  else 0x00

/-- `MemRead(a, 1)` (00_scope.md R12). -/
def Memory.read : Memory → Nat → Byte
  | [], a => resetByte a
  | (k, v) :: m, a => if k = a then v else Memory.read m a

/-- Takes the cell out of the list: it reads as its reset contents again. -/
def Memory.erase (m : Memory) (a : Nat) : Memory := m.filter fun c => c.1 ≠ a

/-- Lists a cell before the first higher address. -/
def Memory.insert (a : Nat) (v : Byte) : Memory → Memory
  | [] => [(a, v)]
  | (k, w) :: m => if a < k then (a, v) :: (k, w) :: m else (k, w) :: Memory.insert a v m

/-- `MemWrite(a, 1, v)` (00_scope.md R12), keeping the canonical form. -/
def Memory.write (m : Memory) (a : Nat) (v : Byte) : Memory :=
  if v = resetByte a then m.erase a else Memory.insert a v (m.erase a)

/-- The canonical form: addresses of the map, strictly rising, and no cell listed that holds its reset contents. -/
abbrev Memory.wf (m : Memory) : Prop :=
  m.Pairwise (fun c d => c.1 < d.1) ∧ ∀ c ∈ m, c.1 < 256 ∧ c.2 ≠ resetByte c.1

/-- `reg[a]` (00_scope.md R12). -/
def State.reg (s : State) (a : Byte) : Byte := Memory.read s.mem a.toNat

/-- `reg[a] <- v` (00_scope.md R12). -/
def State.setReg (s : State) (a v : Byte) : State := { s with mem := Memory.write s.mem a.toNat v }

/-- `n` cells in ascending order from `a`, the address wrapping mod 256. -/
def State.readBytes (s : State) (a : Byte) (n : Nat) : List Byte :=
  (List.range n).map fun j => s.reg (a + BitVec.ofNat 8 j)

/-- Plain stores in ascending order from `a`, the address wrapping mod 256 (20_memory.md R52). -/
def State.storeBytes : State → Byte → List Byte → State
  | s, _, [] => s
  | s, a, v :: vs => State.storeBytes (s.setReg a v) (a + 1) vs

/-- The report-mode register, which only F's encoder reads (10_state.md R29, 43_foreground.md R181(b)). Notes: assumption 7. -/
def State.reportMode (s : State) : Byte := s.reg Config.modeRegAddr

/-- What the calibration block 0x20 to 0x2F and its copy 0x30 to 0x3F hold now (10_state.md R21, R23). -/
def State.calibration (s : State) : Vector Byte 32 := Vector.ofFn fun k : Fin 32 => s.reg (0x20 + BitVec.ofNat 8 k.val)

/-! ### The cursor -/

/-- The effect of an address select (40_bus_write.md R102). -/
def State.select (s : State) (a : Byte) : State :=
  { s with address := a, newAddress := true, offset := 0, bpos := 0 }

/-- `cur.new_address <- false` (41_bus_read.md R132). -/
def State.clearNew (s : State) : State := { s with newAddress := false }

/-- `cur.offset <- o`. -/
def State.setOffset (s : State) (o : Nat) : State := { s with offset := o }

/-- `bpos <- b`. -/
def State.setBpos (s : State) (b : Nat) : State := { s with bpos := b }

/-! ### The cipher state -/

/-- `cs.enabled <- false ; cs.tables <- invalid` (40_bus_write.md R106). -/
def State.invalidate (s : State) : State := { s with enabled := false, tables := none }

/-- `cs.tables <- T ; cs.enabled <- true` (42_cipher.md R163). -/
def State.install (s : State) (T : Tables) : State := { s with enabled := true, tables := some T }

/-- The tables a transform uses; while they are `invalid`, a free value (10_state.md R35). Notes: assumption 16. -/
def State.activeTables (s : State) : Tables := s.tables.getD Config.invalidTables

/-- The key material `k[0..15] = reg[0x40..0x4F]` (10_state.md R24). -/
def State.keyMaterial (s : State) : Vector Byte 16 :=
  Vector.ofFn fun j : Fin 16 => s.reg (0x40 + BitVec.ofNat 8 j.val)

/-- Key setup over the stored key area (42_cipher.md R163, R168). -/
def State.keySetup (s : State) : State := s.install (Config.keySchedule s.keyMaterial)

/-! ### The outputs -/

/-- `respond(seq)` (00_scope.md R12). -/
def State.respond (s : State) (seq : List Byte) : State := { s with response := seq }

/-- `if HAS_REFRESH: signal refresh` (41_bus_read.md R133). -/
def State.signalRefresh (s : State) (hasRefresh : Bool) : State :=
  { s with refreshPending := if hasRefresh then s.refreshPending + 1 else s.refreshPending }

/-- F consumes one pending `refresh` event, if there is one (43_foreground.md R184). Notes: assumption 17. -/
def State.consumeRefresh (s : State) (hasRefresh : Bool) : State :=
  { s with refreshPending := if hasRefresh then s.refreshPending - 1 else s.refreshPending }

/-! ### The centre report -/

/-- The centre report as F encodes it now: the layout is selected by reading the mode register, "not by compile-time
configuration" (43_foreground.md R181(b), R185). Whether its values come from CAL_DATA, from the calibration block or from its copy is
left free; that F reads the mode register and these cells once, in one step, is the model's choice. Notes: assumptions 30, 33. -/
def State.encodedCentre (s : State) : CentreReport where
  layout := Config.encoderLayout s.reportMode
  bytes := Config.centreBytes Config.calData s.calibration s.reportMode

/-- F encodes the centre report: no field of the block changes (43_foreground.md R183). -/
def State.encodeCentre (s : State) : State := { s with centre := some s.encodedCentre }

/-- The bytes that a layout fills, in the order in which F stores them. -/
def centreOrder (l : EncoderLayout) : List (Fin 8) :=
  ((List.finRange 8).filter fun i => i.val < l.bytes).insertionSort fun i j => Config.centreTurn i ≤ Config.centreTurn j

/-- The stores of a centre report, F's first steps after `INIT` (43_foreground.md R185). Notes: assumption 30. -/
def centreStores (r : CentreReport) : List FgOp :=
  (centreOrder r.layout).map fun i : Fin 8 => .store (BitVec.ofNat 8 i) r.bytes[i]

/-- What F does next for the centre report. -/
inductive CentreTask where
  /-- It reads the mode register and encodes the report. -/
  | encode
  /-- It makes the next store. -/
  | store (op : FgOp)
  deriving DecidableEq, Repr

/-- What F does next for the centre report, if it is not wholly stored: it encodes the report, then makes its stores. -/
def State.centreDue (s : State) : Option CentreTask :=
  match s.centre with
  | none => some .encode
  | some r => (centreStores r)[s.centreDone]?.map .store

/-- One more store of the centre report is done. -/
def State.countCentre (s : State) : State := { s with centreDone := s.centreDone + 1 }

/-- F starts: the centre report is not encoded and none of its stores is done (70_reset_and_hazards.md R230). -/
def State.restartCentre (s : State) : State := { s with centre := none, centreDone := 0 }

/-! ### The queues -/

/-- The pending events are `es` (60_exceptions.md R203). -/
def State.setPending (s : State) (es : List BusEvent) : State := { s with pending := es }

/-- Events that arrive wait behind those that already do, in wire order (60_exceptions.md R203, R204). -/
def State.arrive (s : State) (es : List BusEvent) : State := s.setPending (s.pending ++ es)

/-- The rest of the input list. -/
def State.setInputs (s : State) (is : List Input) : State := { s with inputs := is }

/-- The block's phase (70_reset_and_hazards.md R231). -/
def State.setPhase (s : State) (p : Phase) : State := { s with phase := p }

/-- How many bytes a master clocks past a response of `m` bytes. -/
def padCount (clocks : Option Nat) (m : Nat) : Nat := clocks.getD m - m

/-- What a master receives that clocks that many bytes: the response as far as it goes, then PAD (30_encoding.md R72). -/
def clocked (clocks : Option Nat) (response : List Byte) (draws : Nat) : List Byte :=
  response.take (clocks.getD response.length) ++
    (List.range (padCount clocks response.length)).map fun j => Config.pad (draws + j)

/-- The transport passes the response to the master (30_encoding.md R72). -/
def State.transmit (s : State) (clocks : Option Nat) : State :=
  { s with
    received := s.received ++ [clocked clocks s.response s.padDraws]
    padDraws := s.padDraws + padCount clocks s.response.length }

end Sys2Proof.Machine
end

