-- ==== Sys2Proof/Machine/Flags.lean ====
section
/-! DEFINITION. The flags: the per-byte conditions of a data write, and the new-address flag's part in the page offset. -/

namespace Sys2Proof.Machine

/-- The raw byte `v` at register `t` disables the cipher (40_bus_write.md R106(a)). -/
def disableTrigger (t v : Byte) : Bool := t == 0xF0 && (v == 0x55 || v == 0xAA)

/-- The raw byte `v` at register `t` requests the legacy key (40_bus_write.md R106(b)). -/
def legacyTrigger (t v : Byte) : Bool := t == 0x40 && v == 0x00

/-- A byte at register `t` completes the key material (40_bus_write.md R106(c)). -/
def completeTrigger (t : Byte) : Bool := t == 0x4F

/-- The page offset that a generic read uses: 0 right after an address select, else 8 further, saturating at 256
(41_bus_read.md R136). -/
def nextOffset (newAddress : Bool) (offset : Nat) : Nat := if newAddress then 0 else min (offset + 8) 256

/-- `bpos` after a report read (41_bus_read.md R134). -/
def nextBpos (len : ReportLen) (bpos : Nat) : Nat := (bpos + 8) % len.bytes

end Sys2Proof.Machine
end

