-- ==== Sys2Proof/Machine/Operands.lean ====
section
/-! DEFINITION. Operand assembly: the per-byte transforms of the cipher, the bytes that go in and out, and the read windows
(30_encoding.md R73, R74; 42_cipher.md R160, R161). -/

namespace Sys2Proof.Machine

/-- The table index of a register address, `a mod 8` (10_state.md R35). -/
def tableIndex (a : Byte) : Fin 8 := ⟨a.toNat % 8, Nat.mod_lt _ (by decide)⟩

/-- `Enc(d, a)`: a stored byte as it is sent (42_cipher.md R160). -/
def enc (T : Tables) (d a : Byte) : Byte := (d - T.additive.get (tableIndex a)) ^^^ T.mask.get (tableIndex a)

/-- `Dec(v, a)`: a raw wire byte as it is stored (42_cipher.md R161). -/
def dec (T : Tables) (v a : Byte) : Byte := (v ^^^ T.mask.get (tableIndex a)) + T.additive.get (tableIndex a)

/-- The 8-bit rotate right that a key schedule uses (42_cipher.md R165). -/
def ror8 (x : Byte) (r : Fin 8) : Byte := (x >>> r.val) ||| (x <<< (8 - r.val))

/-- The value a data write stores for the raw byte `v` at register `t` (40_bus_write.md R105). -/
def State.storedValue (s : State) (v t : Byte) : Byte := if s.enabled then dec s.activeTables v t else v

/-- The byte a read sends for register `a`; `masked` says whether the read's path masks at all
(41_bus_read.md R134, R135, R136). -/
def State.sentValue (s : State) (masked : Bool) (a : Byte) : Byte :=
  if masked && s.enabled then enc s.activeTables (s.reg a) a else s.reg a

/-- The `n` bytes a read sends from register `start` on (30_encoding.md R74). -/
def State.window (s : State) (masked : Bool) (start n : Nat) : List Byte :=
  (List.range n).map fun j => s.sentValue masked (BitVec.ofNat 8 (start + j))

/-- The length of a generic window of at most `most` bytes, clamped to the register space (41_bus_read.md R136, R138, R140).
The subtraction of natural numbers ends at 0, which is the rule's `max(0, …)`. -/
def clampLength (most start : Nat) : Nat := min most (256 - start)

end Sys2Proof.Machine
end

