-- ==== Sys2Proof/Machine/BusRead.lean ====
section
/-! DEFINITION. The bus read operations RD_REPORT, RD_ID, RD_GEN and RD_GEN_U (41_bus_read.md). The dispatch among them is
the decoder's (R131): a meaning does not test `cur.address` again. -/

namespace Sys2Proof.Machine

/-- The report read for every value of its three parameters (41_bus_read.md R134). -/
def State.reportRead (s : State) (len : ReportLen) (masked hasRefresh : Bool) : State :=
  (((s.respond (s.window masked s.bpos 8)).setBpos (nextBpos len s.bpos)).clearNew).signalRefresh hasRefresh

/-- The identification read (41_bus_read.md R135). -/
def State.idRead (s : State) : State := (s.respond (s.window false 0xFA 6)).clearNew

/-- A generic read of at most `most` bytes whose page offset is `o` (41_bus_read.md R136, R138). -/
def State.genericRead (s : State) (most o : Nat) : State :=
  ((s.setOffset o).respond
    (s.window true (s.address.toNat + o) (clampLength most (s.address.toNat + o)))).clearNew

/-- `RD_REPORT` (41_bus_read.md R134). -/
def execRdReport (s : State) : Host.Outcome State Fault Refusal :=
  .next (s.reportRead Config.reportLen Config.reportMasked Config.hasRefresh)

/-- `RD_ID` (41_bus_read.md R135). -/
def execRdId (s : State) : Host.Outcome State Fault Refusal := .next s.idRead

/-- `RD_GEN` under Paged8, `PAGE` = 8 (41_bus_read.md R136). -/
def execRdGen (s : State) : Host.Outcome State Fault Refusal :=
  .next (s.genericRead 8 (nextOffset s.newAddress s.offset))

/-- `RD_GEN_U` under Unpaged21, `UNPAGED_MAX` = 21 (41_bus_read.md R138). -/
def execRdGenU (s : State) : Host.Outcome State Fault Refusal := .next (s.genericRead 21 0)

end Sys2Proof.Machine
end

