-- ==== Sys2Proof/Machine/BusWrite.lean ====
section
/-! DEFINITION. The bus write operations WZ, SEL and WR (40_bus_write.md). -/

namespace Sys2Proof.Machine

/-- A data write in progress: the state, and the two flags that live only while the write is processed (10_state.md R36).
Notes: assumption 23. -/
structure WriteRun where
  st : State
  legacyReq : Bool
  keyComplete : Bool
  deriving DecidableEq, Repr

/-- Both flags are false when the write starts (10_state.md R36). -/
def WriteRun.start (s : State) : WriteRun := { st := s, legacyReq := false, keyComplete := false }

/-- The cipher state after the checks of one byte: the 0xF0 check and the 0x40 check (40_bus_write.md R106). -/
def State.checkByte (s : State) (t v : Byte) : State :=
  if disableTrigger t v || legacyTrigger t v then s.invalidate else s

/-- One byte of a data write: the checks on the raw byte, then the store, which sees what the checks left
(40_bus_write.md R104 to R106; 60_exceptions.md R205). -/
def WriteRun.byte (r : WriteRun) (t v : Byte) : WriteRun :=
  { st := (r.st.checkByte t v).setReg t ((r.st.checkByte t v).storedValue v t)
    legacyReq := r.legacyReq || legacyTrigger t v
    keyComplete := r.keyComplete || completeTrigger t }

/-- The bytes of a data write in ascending order from register `t`, the address wrapping mod 256 (40_bus_write.md R105). -/
def WriteRun.bytes : WriteRun → Byte → List Byte → WriteRun
  | r, _, [] => r
  | r, t, v :: vs => WriteRun.bytes (r.byte t v) (t + 1) vs

/-- The legacy request zeroes the key area after the last byte (40_bus_write.md R107). -/
def WriteRun.zeroLegacy (r : WriteRun) : State :=
  if r.legacyReq then r.st.storeBytes 0x40 (List.replicate 16 0x00) else r.st

/-- The end of a data write: the legacy zeroing, then key setup, once, if a key condition fired (40_bus_write.md R107). -/
def WriteRun.finish (r : WriteRun) : State :=
  if r.legacyReq || r.keyComplete then r.zeroLegacy.keySetup else r.zeroLegacy

/-- `WZ` (40_bus_write.md R100). -/
def execWz (s : State) : Host.Outcome State Fault Refusal := .next s

/-- `SEL a` (40_bus_write.md R102). -/
def execSel (a : Byte) (s : State) : Host.Outcome State Fault Refusal := .next (s.select a)

/-- `WR a, v[0..n-1]` (40_bus_write.md R104). -/
def execWr (a : Byte) (v : List Byte) (s : State) : Host.Outcome State Fault Refusal :=
  .next ((WriteRun.start s).bytes a v).finish

end Sys2Proof.Machine
end

