-- ==== Sys2Proof/Machine/Cipher.lean ====
section
/-! DEFINITION. The cipher codec's operation KEYSETUP (42_cipher.md). -/

namespace Sys2Proof.Machine

/-- `KEYSETUP` (42_cipher.md R163). No event decodes to it: a data write runs it as its last part (30_encoding.md R76).
Notes: assumption 28. -/
def execKeysetup (s : State) : Host.Outcome State Fault Refusal := .next s.keySetup

end Sys2Proof.Machine
end

