-- ==== Sys2Proof/Machine/Foreground.lean ====
section
/-! DEFINITION. The foreground agent's operations FG_STORE, FG_CS and FG_REFRESH (43_foreground.md). -/

namespace Sys2Proof.Machine

/-- One access of a critical section. What F reads goes into F's own registers, which lie outside the block
(60_exceptions.md R206). Notes: assumption 21. -/
def State.fgAccess (s : State) : FgAccess → State
  | .read _ => s
  | .store a v => s.setReg a v

/-- The body of a critical section, in order (43_foreground.md R182). -/
def State.fgBody : State → List FgAccess → State
  | s, [] => s
  | s, x :: xs => State.fgBody (s.fgAccess x) xs

/-- `FG_STORE a, v`, stored plain (43_foreground.md R180). Notes: assumption 20. -/
def execFgStore (a v : Byte) (s : State) : Host.Outcome State Fault Refusal := .next (s.setReg a v)

/-- `FG_CS { … }`, the whole body as one step (43_foreground.md R182). -/
def execFgCs (body : List FgAccess) (s : State) : Host.Outcome State Fault Refusal := .next (s.fgBody body)

/-- `FG_REFRESH` (43_foreground.md R184). Notes: assumption 17. -/
def execFgRefresh (s : State) : Host.Outcome State Fault Refusal := .next (s.consumeRefresh Config.hasRefresh)

end Sys2Proof.Machine
end

