-- ==== Sys2Proof/Machine/Init.lean ====
section
/-! DEFINITION. Initialisation, INIT (70_reset_and_hazards.md R230). -/

namespace Sys2Proof.Machine

/-- All registers zero (70_reset_and_hazards.md R230, first line). -/
def State.initZero (s : State) : State := s.storeBytes 0x00 (List.replicate 256 0x00)

/-- The calibration block with its checksum pair (10_state.md R23). -/
def State.initCalibration (s : State) : State :=
  ((s.storeBytes 0x20 Config.calData.toList).setReg 0x2E (calSum + 0x55)).setReg 0x2F (calSum + 0xAA)

/-- The copy of the calibration block (10_state.md R23). The two ranges are apart, so the 16 bytes may be read first. -/
def State.initCopy (s : State) : State := s.storeBytes 0x30 (s.readBytes 0x20 16)

/-- The identification bytes (10_state.md R27). -/
def State.initId (s : State) : State := s.storeBytes 0xFA Config.idBytes.toList

/-- `INIT`: the register map, the cursor, the cipher state, and only then the transport and F
(70_reset_and_hazards.md R230, R231); F starts with the stores of the centre report. Notes: assumptions 22, 30. -/
def execInit (s : State) : Host.Outcome State Fault Refusal :=
  .next ((((s.initZero.initCalibration.initCopy.initId).select 0x00).invalidate).restartCentre.setPhase .running)

end Sys2Proof.Machine
end

