-- ==== Sys2Proof/Machine/Dispatch.lean ====
section
/-! DEFINITION. Each operation's meaning. -/

namespace Sys2Proof.Machine

def exec (i : Instr) (s : State) : Host.Outcome State Fault Refusal :=
  match i with
  | .wz => Sys2Proof.Machine.execWz s
  | .sel a => Sys2Proof.Machine.execSel a s
  | .wr a v => Sys2Proof.Machine.execWr a v s
  | .rdReport => Sys2Proof.Machine.execRdReport s
  | .rdId => Sys2Proof.Machine.execRdId s
  | .rdGen => Sys2Proof.Machine.execRdGen s
  | .rdGenU => Sys2Proof.Machine.execRdGenU s
  | .keysetup => Sys2Proof.Machine.execKeysetup s
  | .fgStore a v => Sys2Proof.Machine.execFgStore a v s
  | .fgCs body => Sys2Proof.Machine.execFgCs body s
  | .fgRefresh => Sys2Proof.Machine.execFgRefresh s
  | .init => Sys2Proof.Machine.execInit s

end Sys2Proof.Machine
end

