-- ==== Sys2Proof/Machine/Agents.lean ====
section
/-! DEFINITION. The two agents' steps and how a transaction is placed before the bus agent (20_memory.md R59; 60_exceptions.md
R203 to R207). -/

namespace Sys2Proof.Machine

/-- What the transport does after the handler of an event: it passes a read's response on; a write has none
(30_encoding.md R72). -/
def State.afterEvent (s : State) : BusEvent → State
  | .write _ => s
  | .read clocks => s.transmit clocks

/-- A bus step: one event, completely. Taking the event is what clears it (60_exceptions.md R203); entry and return change no
other field (R206, R207). -/
def busStep (e : BusEvent) (rest : List BusEvent) (s : State) : Host.Outcome State Fault Refusal :=
  match decodeEvent Config.windowPolicy s.address e with
  | .error r => .refused (.notAnEvent r)
  | .ok i =>
    match exec i (s.setPending rest) with
    | .next t => .next (t.afterEvent e)
    | .fault f => .fault f
    | .refused r => .refused r

/-- A foreground step, and the events that arrived while it ran: they are pending when it ends (43_foreground.md R182;
60_exceptions.md R203). -/
def foregroundStep (op : FgOp) (during : List BusEvent) (rest : List Input) (s : State) :
    Host.Outcome State Fault Refusal :=
  if op.wellFormed then
    match exec op.toInstr (s.setInputs rest) with
    | .next t => .next (t.arrive during)
    | .fault f => .fault f
    | .refused r => .refused r
  else .refused .notAForegroundStep

/-- One step of F for the centre report (43_foreground.md R181(b), R185), with the events that arrived while it ran.
Notes: assumption 30. -/
def centreStep (during : List BusEvent) (rest : List Input) (s : State) : CentreTask → Host.Outcome State Fault Refusal
  | .encode => .next ((s.encodeCentre.setInputs rest).arrive during)
  | .store op => foregroundStep op during rest s.countCentre

/-- F's turn for a step for the centre report; once the report is stored, only the events arrive (43_foreground.md R185).
Notes: assumption 30. -/
def centreTurn (during : List BusEvent) (rest : List Input) (s : State) : Host.Outcome State Fault Refusal :=
  match s.centreDue with
  | some task => centreStep during rest s task
  | none => .next ((s.setInputs rest).arrive during)

/-- F's turn for a step of its loop: the steps for the centre report go first, and the step stays to come
(43_foreground.md R185). Notes: assumption 30. -/
def foregroundTurn (op : FgOp) (during : List BusEvent) (rest : List Input) (s : State) :
    Host.Outcome State Fault Refusal :=
  match s.centreDue with
  | some task => centreStep [] (.foreground op during :: rest) s task
  | none => foregroundStep op during rest s

/-- What happens next once no bus event is pending: the head of the input list, or nothing. Notes: assumptions 18, 19. -/
def inputStep (s : State) : Host.Outcome State Fault Refusal :=
  match s.inputs with
  | [] => .next s
  | .arrive e :: rest => .next ((s.setInputs rest).arrive [e])
  | .centre during :: rest => centreTurn during rest s
  | .foreground op during :: rest => foregroundTurn op during rest s

/-- A running block: a pending bus event goes before F's next step (60_exceptions.md R204). -/
def runningStep (s : State) : Host.Outcome State Fault Refusal :=
  match s.pending with
  | [] => inputStep s
  | e :: rest => busStep e rest s

/-- One step of the machine: initialisation first, then the agents (70_reset_and_hazards.md R231). -/
def machineStep (s : State) : Host.Outcome State Fault Refusal :=
  match s.phase with
  | .beforeInit => exec .init s
  | .running => runningStep s

/-- The state in which the next step is the bus step of an event, ahead of all others. A read is decoded with the cursor at
`tableAddress`, so the cursor's address is set too. Notes: assumption 15. -/
def State.stage (s : State) : BusEvent → State
  | .write d => { s with pending := .write d :: s.pending, phase := .running }
  | .read k => { s with pending := .read k :: s.pending, phase := .running, address := tableAddress }

/-- The state in which the next step is the bus step of the transaction whose bytes are the number's, if it is one. -/
def State.stageWord (s : State) (nbits w : Nat) : State :=
  match transport (wordBytes nbits w) with
  | .ok e => s.stage e
  | .error _ => s

end Sys2Proof.Machine
end

