-- ==== Sys2Proof/Machine/Step.lean ====
section
/-! DEFINITION. The machine's step, and an instruction placed where it takes its next one. -/

namespace Sys2Proof.Machine

/-- One step of the machine. -/
def step (s : State) : Host.Outcome State Fault Refusal := machineStep s

/-- `s` with the transaction of that number as the first pending bus event. Notes: assumptions 1, 15. -/
def State.withFetchWord (s : State) (nbits w : Nat) : State := s.stageWord nbits w

end Sys2Proof.Machine
end

