-- ==== Sys2Proof/Safety.lean ====
section
/-! DEFINITION. The terms that claims use: the machine's invariant, what inputs the hardware can see, sequences of operations,
and what the bytes of a data write ask for. -/

namespace Sys2Proof.Machine

/-- What every step keeps: 10_state.md R32, R33, R35, R37, R43, 43_foreground.md R185 and the canonical form of the register
map. -/
structure State.Inv (s : State) : Prop where
  /-- The register map is in its canonical form. -/
  memCanonical : Memory.wf s.mem
  /-- `cur.offset` is in 0..256 (R32). -/
  offsetBound : s.offset ≤ 256
  /-- `bpos` is a multiple of 8 (R43). -/
  bposMultiple : s.bpos % 8 = 0
  /-- `bpos` lies in the report area (R33). -/
  bposInArea : s.bpos < Config.reportLen.bytes
  /-- An enabled cipher has tables (R35, R43). -/
  tablesValid : s.enabled = true → s.tables.isSome = true
  /-- Every rule that clears `cs.enabled` also sets the tables to `invalid` (R35). -/
  tablesInvalid : s.enabled = false → s.tables = none
  /-- A response has 0 to 21 bytes (R37). -/
  responseBound : s.response.length ≤ 21
  /-- Without the capability no `refresh` event is emitted (41_bus_read.md R133). -/
  refreshOnlyIfPresent : Config.hasRefresh = false → s.refreshPending = 0
  /-- F makes no more stores of the centre report than there are (43_foreground.md R185). -/
  centreBound : ∀ r, s.centre = some r → s.centreDone ≤ (centreStores r).length
  /-- Before the centre report is encoded none of its stores is done. -/
  centreNotStarted : s.centre = none → s.centreDone = 0

/-- Every event and every foreground step still to come is one the hardware can see (30_encoding.md R78, 43_foreground.md R180,
R183). -/
structure State.InputsOk (s : State) : Prop where
  pendingOk : ∀ e ∈ s.pending, e.wellFormed = true
  inputsOk : ∀ x ∈ s.inputs, x.wellFormed = true

/-- Operations one after the other, with no other step between them. -/
def execAll : List Instr → State → Host.Outcome State Fault Refusal
  | [], s => .next s
  | i :: is, s =>
    match exec i s with
    | .next t => execAll is t
    | .fault f => .fault f
    | .refused r => .refused r

/-- That many steps of the machine, one after the other. -/
def stepTimes : Nat → State → Host.Outcome State Fault Refusal
  | 0, s => .next s
  | n + 1, s =>
    match step s with
    | .next t => stepTimes n t
    | .fault f => .fault f
    | .refused r => .refused r

/-- The register that byte `i` of a data write from `a` reaches (40_bus_write.md R105). -/
def target (a : Byte) (i : Nat) : Byte := a + BitVec.ofNat 8 i

/-- One of the first `n` bytes has the raw value 0x55 or 0xAA and reaches 0xF0 (40_bus_write.md R106(a)). -/
def DisablesWithin (a : Byte) (v : List Byte) (n : Nat) : Prop :=
  ∃ i, ∃ h : i < v.length, i < n ∧ target a i = 0xF0 ∧ (v[i] = 0x55 ∨ v[i] = 0xAA)

/-- One of the first `n` bytes has the raw value 0x00 and reaches 0x40 (40_bus_write.md R106(b)). -/
def RequestsLegacyWithin (a : Byte) (v : List Byte) (n : Nat) : Prop :=
  ∃ i, ∃ h : i < v.length, i < n ∧ target a i = 0x40 ∧ v[i] = 0x00

/-- Some byte of the write disables the cipher. -/
def Disables (a : Byte) (v : List Byte) : Prop := DisablesWithin a v v.length

/-- Some byte of the write requests the legacy key. -/
def RequestsLegacy (a : Byte) (v : List Byte) : Prop := RequestsLegacyWithin a v v.length

/-- Some byte of the write reaches 0x4F (40_bus_write.md R106(c)). -/
def CompletesKey (a : Byte) (v : List Byte) : Prop := ∃ i, i < v.length ∧ target a i = 0x4F

/-- A register of the key area 0x40–0x4F (10_state.md R24). -/
def InKeyArea (b : Byte) : Prop := 0x40 ≤ b.toNat ∧ b.toNat < 0x50

/-- What a masked path sends for the stored byte of register `a` (41_bus_read.md R134, R136). -/
def State.wireByte (s : State) (a : Byte) : Byte := if s.enabled then enc s.activeTables (s.reg a) a else s.reg a

/-- Foreground stores of a report's bytes from 0x00 on, one step each (20_memory.md R59). -/
def reportStores (w : List Byte) : List Instr := w.mapIdx fun i v => .fgStore (BitVec.ofNat 8 i) v

end Sys2Proof.Machine
end

