-- ==== Sys2Proof/Certificates/Slice0/Obligations.lean ====
section
/-! DEFINITION. The statements for the provers. -/

open Sys2Proof Sys2Proof.Machine

/-! ### The bus write operations -/

/-- 40_bus_write.md R100: `WZ` reads and writes no state, so a read after it still restarts its window. -/
def Obligations.ZeroLengthWriteChangesNothing : Prop :=
  (∀ p x, decodeEvent p x (.write []) = .ok .wz) ∧ ∀ s, exec .wz s = .next s

/-- 40_bus_write.md R102: `SEL` sets the four cursor fields and nothing else, and it chooses the read path. -/
def Obligations.AddressSelectSetsOnlyTheCursor : Prop :=
  (∀ p x a, decodeEvent p x (.write [a]) = .ok (.sel a)) ∧
    (∀ a s, exec (.sel a) s = .next { s with address := a, newAddress := true, offset := 0, bpos := 0 }) ∧
    (∀ a s, execAll [.sel a, .sel a] s = exec (.sel a) s) ∧
    ∀ p k, decodeEvent p 0x00 (.read k) = .ok .rdReport ∧ decodeEvent p 0xFA (.read k) = .ok .rdId

/-- 40_bus_write.md R108 and the frame of `WR`: it changes only the register map and the cipher state, and of the map only the
registers its bytes reach and, on a legacy request, the key area. -/
def Obligations.DataWriteFrame : Prop :=
  ∀ a v s, ∃ t, exec (.wr a v) s = .next t ∧
    t = { s with mem := t.mem, enabled := t.enabled, tables := t.tables } ∧
    ∀ b, (∀ i < v.length, target a i ≠ b) → ¬ (RequestsLegacy a v ∧ InKeyArea b) → t.reg b = s.reg b

/-- 40_bus_write.md R105: byte `i` of a data write goes to `(a + i) mod 256`, through `Dec` while the cipher is enabled after the
checks of that byte, else raw; the last byte that reaches a register wins. The key area after a legacy request is apart. -/
def Obligations.DataWriteStoresEachByte : Prop :=
  ∀ a v s, ∃ t, exec (.wr a v) s = .next t ∧
    ∀ i, (h : i < v.length) → v.length ≤ i + 256 → ¬ (RequestsLegacy a v ∧ InKeyArea (target a i)) →
      (s.enabled = true → ¬ DisablesWithin a v (i + 1) → ¬ RequestsLegacyWithin a v (i + 1) →
        t.reg (target a i) = dec s.activeTables v[i] (target a i)) ∧
      (s.enabled = false ∨ DisablesWithin a v (i + 1) ∨ RequestsLegacyWithin a v (i + 1) →
        t.reg (target a i) = v[i])

/-- 40_bus_write.md R107: the end of a data write. -/
def Obligations.DataWriteEndsWithKeySetup : Prop :=
  ∀ a v s, ∃ t, exec (.wr a v) s = .next t ∧
    (RequestsLegacy a v → (∀ b, InKeyArea b → t.reg b = 0x00) ∧ t.keyMaterial = Vector.replicate 16 0x00) ∧
    (RequestsLegacy a v ∨ CompletesKey a v →
      t.enabled = true ∧ t.tables = some (Config.keySchedule t.keyMaterial)) ∧
    (¬ RequestsLegacy a v → ¬ CompletesKey a v → Disables a v → t.enabled = false ∧ t.tables = none) ∧
    (¬ RequestsLegacy a v → ¬ CompletesKey a v → ¬ Disables a v →
      t.enabled = s.enabled ∧ t.tables = s.tables)

/-- 42_cipher.md R170: after a disabling write that fires no key condition, a read at any address is raw. -/
def Obligations.DisablingWriteMakesReadsRaw : Prop :=
  ∀ a v s p b, Disables a v → ¬ RequestsLegacy a v → ¬ CompletesKey a v →
    ∃ t, execAll [.wr a v, .sel b, selectRead p b] s = .next t ∧ t.response ≠ [] ∧
      ∀ j, (h : j < t.response.length) → t.response[j] = t.reg (BitVec.ofNat 8 (b.toNat + j))

/-- 30_encoding.md R80 (`KEY`, `KEY3`), 70_reset_and_hazards.md R241: with the cipher off, a key sent in one write or in three
gives the same state, with the tables of that key. -/
def Obligations.KeyInOneWriteOrThree : Prop :=
  ∀ (k : Vector Byte 16) (s : State), s.enabled = false → k[0] ≠ 0x00 →
    ∃ t, exec (.wr 0x40 k.toList) s = .next t ∧
      execAll [.wr 0x40 (k.toList.take 6), .wr 0x46 ((k.toList.drop 6).take 6), .wr 0x4C (k.toList.drop 12)] s = .next t ∧
      t.keyMaterial = k ∧ t.enabled = true ∧ t.tables = some (Config.keySchedule k)

/-- The cipher is transparent to the host: bytes written and then read back at the same address are the bytes written, whatever
the tables, if the write does not itself change the cipher state (42_cipher.md R162; 0xFA alone is read unmasked). -/
def Obligations.WrittenBytesAreReadBack : Prop :=
  ∀ a v s, a ≠ 0xFA → ¬ Disables a v → ¬ RequestsLegacy a v → ¬ CompletesKey a v →
    v.length ≤ 8 → a.toNat + v.length ≤ 256 →
    ∃ t, execAll [.wr a v, .sel a, selectRead .paged8 a] s = .next t ∧ t.response.take v.length = v

/-! ### The bus read operations -/

/-- 41_bus_read.md R134, for every value of its parameters, and the values this hardware takes. That a report read adds one to a
count of pending `refresh` events, none merging into another, is the model's choice (assumption 17): R134 only signals one. -/
def Obligations.ReportReadReturnsItsWindow : Prop :=
  (∀ p k, decodeEvent p 0x00 (.read k) = .ok .rdReport) ∧
    (∀ s, exec .rdReport s = .next (s.reportRead .eight true Config.hasRefresh)) ∧
    ∀ (s : State) (len : ReportLen) (masked refresh : Bool), ∃ t : State, s.reportRead len masked refresh = t ∧ t.response.length = 8 ∧
      (∀ j, (h : j < t.response.length) → t.response[j] =
        if masked = true then s.wireByte (BitVec.ofNat 8 (s.bpos + j)) else s.reg (BitVec.ofNat 8 (s.bpos + j))) ∧
      t = { s with
        response := t.response
        bpos := (s.bpos + 8) % len.bytes
        newAddress := false
        refreshPending := if refresh then s.refreshPending + 1 else s.refreshPending }

/-- 41_bus_read.md R135: the six identification bytes, never masked. -/
def Obligations.IdentificationReadIsNeverMasked : Prop :=
  (∀ p k, decodeEvent p 0xFA (.read k) = .ok .rdId) ∧
    ∀ s, exec .rdId s = .next { s with
      response := [s.reg 0xFA, s.reg 0xFB, s.reg 0xFC, s.reg 0xFD, s.reg 0xFE, s.reg 0xFF]
      newAddress := false }

/-- 41_bus_read.md R136: the generic window of Paged8. -/
def Obligations.GenericReadReturnsItsPage : Prop :=
  (∀ x k, x ≠ 0x00 → x ≠ 0xFA → decodeEvent .paged8 x (.read k) = .ok .rdGen) ∧
    ∀ s, ∃ t, exec .rdGen s = .next t ∧
      t.offset = (if s.newAddress = true then 0 else min (s.offset + 8) 256) ∧
      t.response.length = min 8 (256 - (s.address.toNat + t.offset)) ∧
      (∀ j, (h : j < t.response.length) →
        t.response[j] = s.wireByte (BitVec.ofNat 8 (s.address.toNat + t.offset + j))) ∧
      t = { s with offset := t.offset, response := t.response, newAddress := false }

/-- 41_bus_read.md R138: the generic read of Unpaged21. -/
def Obligations.UnpagedReadReturnsTheRest : Prop :=
  (∀ x k, x ≠ 0x00 → x ≠ 0xFA → decodeEvent .unpaged21 x (.read k) = .ok .rdGenU) ∧
    ∀ s, ∃ t, exec .rdGenU s = .next t ∧ t.offset = 0 ∧
      t.response.length = min 21 (256 - s.address.toNat) ∧
      (∀ j, (h : j < t.response.length) → t.response[j] = s.wireByte (BitVec.ofNat 8 (s.address.toNat + j))) ∧
      t = { s with offset := 0, response := t.response, newAddress := false }

/-- 41_bus_read.md R137: read `r` after a select returns the window at `A + 8r`, clamped, for any number of reads. -/
def Obligations.PagedReadsWalkTheMap : Prop :=
  ∀ s a r, ∃ t, execAll (.sel a :: List.replicate (r + 1) .rdGen) s = .next t ∧
    t.offset = min (8 * r) 256 ∧
    t.response.length = min 8 (256 - (a.toNat + 8 * r)) ∧
    (∀ j, (h : j < t.response.length) → t.response[j] = s.wireByte (BitVec.ofNat 8 (a.toNat + 8 * r + j))) ∧
    t = { s with address := a, newAddress := false, offset := t.offset, bpos := 0, response := t.response }

/-- 10_state.md R32: a saturated page offset answers as an unbounded one would. -/
def Obligations.SaturatedOffsetAnswersAsUnbounded : Prop :=
  ∀ (s : State) (most o : Nat), (s.genericRead most (min o 256)).response = (s.genericRead most o).response

/-- 41_bus_read.md R132, 20_memory.md R55: every read clears the new-address flag and writes no register, and no read touches
the cipher state or the queues. -/
def Obligations.ReadsClearNewAddressAndStoreNothing : Prop :=
  ∀ i s, i = .rdReport ∨ i = .rdId ∨ i = .rdGen ∨ i = .rdGenU →
    ∃ t, exec i s = .next t ∧ t.newAddress = false ∧ (∀ b, t.reg b = s.reg b) ∧
      t = { s with
        newAddress := t.newAddress, offset := t.offset, bpos := t.bpos, response := t.response
        refreshPending := t.refreshPending }

/-! ### The cipher codec -/

/-- 42_cipher.md R160, R161: the two transforms by their formulas on numbers. -/
def Obligations.CipherTransformFormulas : Prop :=
  ∀ (T : Tables) (x a : Byte),
    (enc T x a).toNat =
      (x.toNat + 256 - (T.additive[a.toNat % 8]'(Nat.mod_lt _ (by decide))).toNat) % 256 ^^^
        (T.mask[a.toNat % 8]'(Nat.mod_lt _ (by decide))).toNat ∧
    (dec T x a).toNat =
      ((x.toNat ^^^ (T.mask[a.toNat % 8]'(Nat.mod_lt _ (by decide))).toNat) +
        (T.additive[a.toNat % 8]'(Nat.mod_lt _ (by decide))).toNat) % 256

/-- 42_cipher.md R162: each transform undoes the other. -/
def Obligations.CipherRoundTrip : Prop :=
  ∀ (T : Tables) (x a : Byte), dec T (enc T x a) a = x ∧ enc T (dec T x a) a = x

/-- 42_cipher.md R163: key setup takes the tables from the 16 stored key bytes, whatever they are, and enables the cipher; no bus
event is key setup alone. -/
def Obligations.KeySetupInstallsTheSchedule : Prop :=
  (∀ p x e, decodeEvent p x e ≠ .ok .keysetup) ∧ ∀ s, ∃ k : Vector Byte 16, (∀ j, (h : j < 16) → k[j] = s.reg (0x40 + BitVec.ofNat 8 j)) ∧
    exec .keysetup s = .next { s with enabled := true, tables := some (Config.keySchedule k) }

/-- 42_cipher.md R169: of all operations only `INIT` and a data write with a disabling byte leave an enabled cipher disabled
(a legacy byte clears it too, and the key setup at the end of the same write enables it again). -/
def Obligations.OnlyDisablingWritesClearTheCipher : Prop :=
  ∀ i s t, exec i s = .next t → s.enabled = true → t.enabled = false →
    i = .init ∨ ∃ a v, i = .wr a v ∧ Disables a v ∧ ¬ RequestsLegacy a v ∧ ¬ CompletesKey a v

/-- 10_state.md R34: of all operations only key setup, alone or at the end of a data write, enables a disabled cipher. -/
def Obligations.OnlyKeySetupEnablesTheCipher : Prop :=
  ∀ i s t, exec i s = .next t → s.enabled = false → t.enabled = true →
    i = .keysetup ∨ ∃ a v, i = .wr a v ∧ (RequestsLegacy a v ∨ CompletesKey a v)

/-- 10_state.md R35: while the cipher is disabled no operation reads the tables. -/
def Obligations.DisabledCipherIgnoresItsTables : Prop :=
  ∀ i s T, s.enabled = false →
    ∃ t u, exec i s = .next t ∧ exec i { s with tables := T } = .next u ∧ u = { t with tables := u.tables }

/-! ### The foreground agent -/

/-- 43_foreground.md R180: one plain store. -/
def Obligations.ForegroundStoreIsPlain : Prop :=
  ∀ a v s, ∃ t, exec (.fgStore a v) s = .next t ∧ t.reg a = v ∧ (∀ b, b ≠ a → t.reg b = s.reg b) ∧
    t = { s with mem := t.mem }

/-- 43_foreground.md R182: the body runs in order; the last store to a register decides it. -/
def Obligations.CriticalSectionRunsItsBody : Prop :=
  ∀ body s, ∃ t, exec (.fgCs body) s = .next t ∧ t = { s with mem := t.mem } ∧
    (∀ b, (∀ v, FgAccess.store b v ∉ body) → t.reg b = s.reg b) ∧
    ∀ b v xs ys, body = xs ++ FgAccess.store b v :: ys → (∀ w, FgAccess.store b w ∉ ys) → t.reg b = v

/-- 43_foreground.md R184, and the model's choice of assumption 17 for a step with no event pending. -/
def Obligations.RefreshEventIsConsumed : Prop :=
  ∀ s, exec .fgRefresh s =
    .next { s with refreshPending := if Config.hasRefresh then s.refreshPending - 1 else s.refreshPending }

/-- 43_foreground.md R183: F writes no cursor field, no cipher state and no register outside the report area. -/
def Obligations.ForegroundKeepsToTheReportArea : Prop :=
  ∀ op s, op.wellFormed = true → ∃ t, exec (FgOp.toInstr op) s = .next t ∧
    (∀ b, ¬ b.toNat < Config.reportLen.bytes → t.reg b = s.reg b) ∧
    t = { s with mem := t.mem, refreshPending := t.refreshPending }

/-- 70_reset_and_hazards.md R240, 20_memory.md R60: a report read between F's stores sees the bytes stored so far and the old
rest, for every length of the part already stored. -/
def Obligations.TornReportIsRead : Prop :=
  ∀ (s : State) (w : List Byte), s.enabled = false → s.bpos = 0 → w.length ≤ 8 →
    ∃ t, execAll (reportStores w ++ [.rdReport]) s = .next t ∧ t.response.length = 8 ∧
      ∀ j, (h : j < t.response.length) → t.response[j] =
        if h : j < w.length then w[j] else s.reg (BitVec.ofNat 8 j)

/-- 10_state.md R28, 40_bus_write.md R109 case 10: a host write to the identification bytes is stored like any other, and the
identification read returns what is stored. -/
def Obligations.HostWriteToIdentificationIsRead : Prop :=
  ∀ x s, ∃ t, execAll [.wr 0xFA [x], .sel 0xFA, .rdId] s = .next t ∧
    t.response =
      [if s.enabled then dec s.activeTables x 0xFA else x, s.reg 0xFB, s.reg 0xFC, s.reg 0xFD, s.reg 0xFE, s.reg 0xFF]

/-! ### Initialisation and reset -/

/-- 70_reset_and_hazards.md R230, 10_state.md R23: what `INIT` leaves, from any state. That the response, the refresh count, the
queues and the records stay is the model's reading (assumption 22), and the two fields of the centre report are the
model's own (assumption 30). -/
def Obligations.InitialisationEstablishesItsValues : Prop :=
  ∀ s, ∃ t, exec .init s = .next t ∧
    (∀ k, (h : k < 14) → t.reg (0x20 + BitVec.ofNat 8 k) = Config.calData[k]) ∧
    t.reg 0x2E = BitVec.ofNat 8 ((Config.calData.toList.map BitVec.toNat).sum % 256) + 0x55 ∧
    t.reg 0x2F = BitVec.ofNat 8 ((Config.calData.toList.map BitVec.toNat).sum % 256) + 0xAA ∧
    (∀ k < 16, t.reg (0x30 + BitVec.ofNat 8 k) = t.reg (0x20 + BitVec.ofNat 8 k)) ∧
    [t.reg 0xFA, t.reg 0xFB, t.reg 0xFC, t.reg 0xFD, t.reg 0xFE, t.reg 0xFF] = [0x00, 0x00, 0xA4, 0x20, 0x01, 0x01] ∧
    (∀ b, b.toNat < 0x20 ∨ 0x40 ≤ b.toNat ∧ b.toNat < 0xFA → t.reg b = 0x00) ∧
    t = { s with
      mem := t.mem, address := 0x00, newAddress := true, offset := 0, bpos := 0, enabled := false, tables := none
      centre := none, centreDone := 0, phase := .running }

/-- From any canonical map, `INIT` leaves exactly the reset state, but for the outputs and the queues, which are not its own
(assumption 22). -/
def Obligations.InitialisationLeavesTheResetState : Prop :=
  ∀ s, Memory.wf s.mem → exec .init s = .next { State.reset with
    response := s.response, refreshPending := s.refreshPending, pending := s.pending, inputs := s.inputs
    received := s.received, padDraws := s.padDraws }

/-- 10_state.md R40: the register map at reset. -/
def Obligations.ResetRegisterMap : Prop :=
  (∀ k, (h : k < 14) → State.reset.reg (0x20 + BitVec.ofNat 8 k) = Config.calData[k]) ∧
    State.reset.reg 0x2E = BitVec.ofNat 8 ((Config.calData.toList.map BitVec.toNat).sum % 256) + 0x55 ∧
    State.reset.reg 0x2F = BitVec.ofNat 8 ((Config.calData.toList.map BitVec.toNat).sum % 256) + 0xAA ∧
    (∀ k < 16, State.reset.reg (0x30 + BitVec.ofNat 8 k) = State.reset.reg (0x20 + BitVec.ofNat 8 k)) ∧
    (List.range 6).map (fun j => State.reset.reg (0xFA + BitVec.ofNat 8 j)) = [0x00, 0x00, 0xA4, 0x20, 0x01, 0x01] ∧
    ∀ b : Byte, b.toNat < 0x20 ∨ 0x40 ≤ b.toNat ∧ b.toNat < 0xFA → State.reset.reg b = 0x00

/-- 10_state.md R41, R42: the cursor and the cipher state at reset. -/
def Obligations.ResetCursorAndCipher : Prop :=
  State.reset.address = 0x00 ∧ State.reset.newAddress = true ∧ State.reset.offset = 0 ∧ State.reset.bpos = 0 ∧
    State.reset.enabled = false ∧ State.reset.tables = none ∧
    exec (.sel 0x00) State.reset = .next State.reset ∧
    ∀ p k, decodeEvent p State.reset.address (.read k) = .ok .rdReport

/-- 70_reset_and_hazards.md R233: a report read before F's first stores returns eight zeros, one after F has stored its report
returns that report. -/
def Obligations.FirstReportReadInBothOrders : Prop :=
  (∃ t, exec .rdReport State.reset = .next t ∧ t.response = List.replicate 8 0x00) ∧
    ∀ w : List Byte, w.length = 8 →
      ∃ t, execAll (reportStores w ++ [.rdReport]) State.reset = .next t ∧ t.response = w

/-! ### The machine's step -/

/-- The reset state meets the invariant. -/
def Obligations.ResetMeetsTheInvariant : Prop := State.reset.Inv ∧ State.reset.InputsOk

/-- Every step keeps the invariant: the canonical register map, the bounds of the cursor, the tie between the cipher's flag and
its tables, the response's length. -/
def Obligations.StepKeepsTheInvariant : Prop := ∀ s t, s.Inv → step s = .next t → t.Inv

/-- Every step keeps the inputs ones the hardware can see. -/
def Obligations.StepKeepsInputsPossible : Prop := ∀ s t, s.InputsOk → step s = .next t → t.InputsOk

/-- 00_scope.md R13: every operation is total. -/
def Obligations.OperationsAreTotal : Prop := ∀ i s, ∃ t, exec i s = .next t

/-- 60_exceptions.md R200: on inputs the hardware can see, no step stops, in any state. -/
def Obligations.StepNeverStops : Prop := ∀ s, s.InputsOk → ∃ t, step s = .next t

/-- A pending bus event is taken before any input, and the step runs the operation it decodes to (60_exceptions.md R204; the
transport passes on a read's response, 30_encoding.md R72). -/
def Obligations.StepRunsThePendingEvent : Prop :=
  ∀ s e rest i, s.phase = .running → s.pending = e :: rest →
    decodeEvent Config.windowPolicy s.address e = .ok i →
    ∃ t, exec i { s with pending := rest } = .next t ∧ step s = .next (t.afterEvent e)

/-- With no bus event pending and the centre report stored, F's next step runs whole; the events that arrive meanwhile are pending
after it (43_foreground.md R182, 60_exceptions.md R203). Until the report is stored,
`EncoderReadsTheModeRegister` and `ForegroundFirstStoresTheCentreReport` say what runs. -/
def Obligations.StepRunsTheForeground : Prop :=
  ∀ s op during rest, s.phase = .running → s.pending = [] → s.centreDue = none →
    s.inputs = .foreground op during :: rest → op.wellFormed = true →
    ∃ t, exec (FgOp.toInstr op) { s with inputs := rest } = .next t ∧ step s = .next { t with pending := during }

/-- The other steps: initialisation first (70_reset_and_hazards.md R231), an arrival, and, by the model's choice of assumptions 19
and 30, nothing when nothing is left to come, and arrivals alone at a turn for the centre report after it is stored. -/
def Obligations.StepInitialisesArrivesOrIdles : Prop :=
  (∀ s, s.phase = .beforeInit → step s = exec .init s) ∧
    (∀ s e rest, s.phase = .running → s.pending = [] → s.inputs = .arrive e :: rest →
      step s = .next { s with pending := [e], inputs := rest }) ∧
    (∀ s during rest, s.phase = .running → s.pending = [] → s.centreDue = none → s.inputs = .centre during :: rest →
      step s = .next { s with pending := during, inputs := rest }) ∧
    ∀ s, s.phase = .running → s.pending = [] → s.inputs = [] → step s = .next s

/-- 60_exceptions.md R204: one event a step, in wire order; its step takes nothing else from the queues. -/
def Obligations.EventsAreTakenInWireOrder : Prop :=
  ∀ s t e rest, s.phase = .running → s.pending = e :: rest → step s = .next t →
    t.pending = rest ∧ t.inputs = s.inputs ∧ t.phase = .running

/-- 30_encoding.md R72: the master receives the bytes it clocks, the response as far as it goes; what follows is free. -/
def Obligations.MasterReceivesTheResponse : Prop :=
  ∀ s k rest, s.phase = .running → s.pending = .read k :: rest →
    ∃ t l, step s = .next t ∧ t.received = s.received ++ [l] ∧ l.length = k.getD t.response.length ∧
      ∀ j, j < l.length → j < t.response.length → l[j]? = t.response[j]?

/-- 30_encoding.md R72: how many bytes the master clocks changes no engine state. -/
def Obligations.ClockCountChangesNoEngineState : Prop :=
  ∀ (s : State) (k l : Option Nat) (rest : List BusEvent), s.phase = .running →
    ∃ t u : State, step { s with pending := .read k :: rest } = .next t ∧ step { s with pending := .read l :: rest } = .next u ∧
      u = { t with received := u.received, padDraws := u.padDraws }

/-- An instruction word placed with `withFetchWord` is the one the next step runs, and the queue behind it is as before. -/
def Obligations.StagedWordRunsNext : Prop :=
  ∀ (s : State) (nbits w : Nat) (i : Instr), decodeTableWord nbits w = some i →
    ∃ e t, transport (wordBytes nbits w) = .ok e ∧
      exec i { s.withFetchWord nbits w with pending := s.pending } = .next t ∧
      step (s.withFetchWord nbits w) = .next (t.afterEvent e)

/-! ### The centre report -/

/-- 43_foreground.md R181(a), R185: the stores of a centre report, one for each byte its layout fills, 6 or 8, in any order; at reset
and after `INIT` F has not begun. The order is a free value (assumption 30). -/
def Obligations.CentreStoresAreTheReport : Prop :=
  (∀ r, (centreStores r).Perm
      ((List.range r.layout.bytes).map fun i => .store (BitVec.ofNat 8 i) (r.bytes[i]?.getD 0)) ∧
    (r.layout.bytes = 6 ∨ r.layout.bytes = 8)) ∧
    State.reset.centre = none ∧ State.reset.centreDone = 0 ∧
    ∀ s, ∃ t, exec .init s = .next t ∧ t.centre = none ∧ t.centreDone = 0

/-- 43_foreground.md R181(b), R185: for its first steps F encodes the centre report, with the layout that the mode register selects
as it reads then, and changes nothing else of the state; a step of F's loop stays to come. Which layout each mode selects and which
bytes the report has are free values, the bytes of CAL_DATA and of the calibration block and its copy (assumption 33), and that F
reads the mode register and these cells in one step is the model's choice (assumption 30). -/
def Obligations.EncoderReadsTheModeRegister : Prop :=
  ∀ s : State, s.phase = .running → s.pending = [] → s.centre = none →
    ∃ r : CentreReport, r.layout = Config.encoderLayout (s.reg Config.modeRegAddr) ∧
      r.bytes = Config.centreBytes Config.calData (Vector.ofFn fun k : Fin 32 => s.reg (0x20 + BitVec.ofNat 8 k.val))
        (s.reg Config.modeRegAddr) ∧
      (∀ during rest, s.inputs = .centre during :: rest →
        step s = .next { s with centre := some r, pending := during, inputs := rest }) ∧
      ∀ op during rest, s.inputs = .foreground op during :: rest → step s = .next { s with centre := some r }

/-- 43_foreground.md R185: while the encoded centre report is not wholly stored, F's step is the store that is due and nothing else;
a step of F's loop stays to come. How F's turns are given is the model's choice (assumption 30). -/
def Obligations.ForegroundFirstStoresTheCentreReport : Prop :=
  ∀ (s : State) (r : CentreReport) (h : s.centreDone < (centreStores r).length), s.phase = .running → s.pending = [] →
    s.centre = some r →
    (∀ during rest, s.inputs = .centre during :: rest →
      ∃ t, exec (centreStores r)[s.centreDone].toInstr { s with inputs := rest, centreDone := s.centreDone + 1 } = .next t ∧
        step s = .next { t with pending := during }) ∧
    ∀ op during rest, s.inputs = .foreground op during :: rest →
      ∃ t, exec (centreStores r)[s.centreDone].toInstr { s with centreDone := s.centreDone + 1 } = .next t ∧
        step s = .next t

/-- 43_foreground.md R185, 70_reset_and_hazards.md R233: once F has encoded the centre report and stored it with no bus step in
between, the report area holds it, nothing else of the block has changed, and with the cipher disabled a report read returns it; bytes
the compact layout leaves unused are as before. How F's turns are given is the model's choice (assumption 30). -/
def Obligations.CentreReportIsReadAfterItsStores : Prop :=
  ∀ (s : State) (r : CentreReport) (rest : List Input), s.phase = .running → s.pending = [] → s.centre = none →
    s.centreDone = 0 → r = s.encodedCentre →
    s.inputs = List.replicate (r.layout.bytes + 1) (.centre []) ++ rest →
    ∃ t : State, stepTimes (r.layout.bytes + 1) s = .next t ∧
      (∀ i : Fin 8, i.val < r.layout.bytes → t.reg (BitVec.ofNat 8 i) = r.bytes[i]) ∧
      (∀ b : Byte, r.layout.bytes ≤ b.toNat → t.reg b = s.reg b) ∧
      t = { s with mem := t.mem, centre := some r, centreDone := r.layout.bytes, inputs := rest } ∧
      (s.enabled = false → s.bpos = 0 → ∃ u, exec .rdReport t = .next u ∧ u.response.length = 8 ∧
        ∀ i : Fin 8, u.response[i.val]? =
          some (if i.val < r.layout.bytes then r.bytes[i] else s.reg (BitVec.ofNat 8 i)))

/-! ### Encoding -/

/-- 30_encoding.md R75: the event map, row by row. That the row of `WR` ends at `MAX_WRITE_LEN` and a longer write decodes to nothing
is 30_encoding.md R78 and the model's reading of 93_implementation_defined.md I12 (assumption 6). -/
def Obligations.EventMapIsTotal : Prop :=
  (∀ p x, decodeEvent p x (.write []) = .ok .wz) ∧
    (∀ p x a, decodeEvent p x (.write [a]) = .ok (.sel a)) ∧
    (∀ p x a b v, (a :: b :: v).length ≤ Config.maxWriteLen →
      decodeEvent p x (.write (a :: b :: v)) = .ok (.wr a (b :: v))) ∧
    (∀ p k, decodeEvent p 0x00 (.read k) = .ok .rdReport) ∧
    (∀ p k, decodeEvent p 0xFA (.read k) = .ok .rdId) ∧
    (∀ x k, x ≠ 0x00 → x ≠ 0xFA → decodeEvent .paged8 x (.read k) = .ok .rdGen) ∧
    (∀ x k, x ≠ 0x00 → x ≠ 0xFA → decodeEvent .unpaged21 x (.read k) = .ok .rdGenU) ∧
    ∀ p x e, (e.wellFormed = true ↔ ∃ i, decodeEvent p x e = .ok i)

/-- A few transactions written out from 30_encoding.md R70, R71, R80. The address bytes 0xA4 and 0xA5 are assumption 14. -/
def Obligations.SampleTransactionsDecode : Prop :=
  decode .paged8 0x20 [0xA4] = .ok .wz ∧
    decode .paged8 0x20 [0xA4, 0xFA] = .ok (.sel 0xFA) ∧
    decode .paged8 0x20 [0xA4, 0xF0, 0x55] = .ok (.wr 0xF0 [0x55]) ∧
    decode .paged8 0x00 [0xA5] = .ok .rdReport ∧
    decode .paged8 0xFA [0xA5] = .ok .rdId ∧
    decode .paged8 0x20 [0xA5] = .ok .rdGen ∧
    decode .unpaged21 0x20 [0xA5] = .ok .rdGenU ∧
    decode .paged8 0x20 [0xA6, 0x00] = .error (.otherSlave 0x53)

/-- Decode undoes encode: every well-formed operation with a bus encoding, with every operand. -/
def Obligations.DecodeUndoesEncode : Prop :=
  ∀ p x i bytes, i.wellFormed = true → i.selectedBy p x = true → encode i = some bytes → decode p x bytes = .ok i

/-- Encode undoes decode: what the decoder reads is well formed, is selected, and encodes to the bytes it was read from. -/
def Obligations.EncodeUndoesDecode : Prop :=
  ∀ p x bytes i, decode p x bytes = .ok i →
    encode i = some bytes ∧ i.wellFormed = true ∧ i.selectedBy p x = true
end

