-- ==== Sys2Proof/Laws/Memory.lean ====
section
/-! SUPPORT. The register map as a list of cells: a read after a write, and the canonical form. -/

namespace Sys2Proof.Machine

@[simp] theorem read_nil (a : Nat) : Memory.read [] a = resetByte a := rfl

theorem read_cons (k : Nat) (v : Byte) (m : Memory) (a : Nat) :
    Memory.read ((k, v) :: m) a = if k = a then v else Memory.read m a := rfl

/-- A cell that is not listed reads as its reset contents. -/
theorem read_of_unlisted (m : Memory) (a : Nat) (h : ∀ c ∈ m, c.1 ≠ a) : Memory.read m a = resetByte a := by
  induction m with
  | nil => rfl
  | cons c m ih =>
    obtain ⟨k, v⟩ := c
    rw [read_cons, if_neg (h (k, v) (by simp))]
    exact ih fun c hc => h c (by simp [hc])

/-- A listed cell of a canonical map reads as listed. -/
theorem read_of_listed (m : Memory) (hm : m.Pairwise fun c d => c.1 < d.1) (k : Nat) (v : Byte) (h : (k, v) ∈ m) :
    Memory.read m k = v := by
  induction m with
  | nil => simp at h
  | cons c m ih =>
    obtain ⟨l, w⟩ := c
    rw [List.pairwise_cons] at hm
    rw [read_cons]
    rcases List.mem_cons.1 h with h | h
    · cases h
      simp
    · rw [if_neg (Nat.ne_of_lt (hm.1 _ h))]
      exact ih hm.2 h

theorem mem_erase_iff (m : Memory) (a : Nat) (c : Host.Cell) : c ∈ Memory.erase m a ↔ c ∈ m ∧ c.1 ≠ a := by
  simp [Memory.erase]

theorem read_erase (m : Memory) (a b : Nat) :
    Memory.read (Memory.erase m a) b = if a = b then resetByte b else Memory.read m b := by
  induction m with
  | nil => simp [Memory.erase]
  | cons c m ih =>
    obtain ⟨k, v⟩ := c
    by_cases hk : k = a
    · have : Memory.erase ((k, v) :: m) a = Memory.erase m a := by simp [Memory.erase, hk]
      rw [this, ih, read_cons]
      by_cases hab : a = b
      · simp [hab]
      · simp [hab, show k ≠ b from fun h => hab (hk ▸ h)]
    · have : Memory.erase ((k, v) :: m) a = (k, v) :: Memory.erase m a := by simp [Memory.erase, hk]
      rw [this, read_cons, read_cons, ih]
      by_cases hkb : k = b
      · simp [hkb, show a ≠ b from fun h => hk (hkb.trans h.symm)]
      · simp [hkb]

theorem mem_insert_iff (a : Nat) (v : Byte) (m : Memory) (c : Host.Cell) :
    c ∈ Memory.insert a v m ↔ c = (a, v) ∨ c ∈ m := by
  induction m with
  | nil => simp [Memory.insert]
  | cons d m ih =>
    simp only [Memory.insert]
    split
    · simp
    · simp only [List.mem_cons, ih]
      tauto

theorem read_insert (a : Nat) (v : Byte) (m : Memory) (h : ∀ c ∈ m, c.1 ≠ a) (b : Nat) :
    Memory.read (Memory.insert a v m) b = if a = b then v else Memory.read m b := by
  induction m with
  | nil => simp [Memory.insert, read_cons]
  | cons d m ih =>
    obtain ⟨k, w⟩ := d
    have hk : k ≠ a := h (k, w) (by simp)
    simp only [Memory.insert]
    split
    · rw [read_cons]
    · rw [read_cons, read_cons, ih fun c hc => h c (by simp [hc])]
      by_cases hab : a = b
      · simp [hab, show k ≠ b from hab ▸ hk]
      · simp [hab]

/-- A read after a write: the written cell reads as written, and every other cell as before. -/
theorem read_write (m : Memory) (a : Nat) (v : Byte) (b : Nat) :
    Memory.read (Memory.write m a v) b = if a = b then v else Memory.read m b := by
  unfold Memory.write
  split
  · next hv =>
    rw [read_erase]
    by_cases hab : a = b
    · simp [hab, hv]
    · simp [hab]
  · rw [read_insert _ _ _ fun c hc => ((mem_erase_iff _ _ _).1 hc).2, read_erase]
    by_cases hab : a = b <;> simp [hab]

theorem pairwise_insert (a : Nat) (v : Byte) (m : Memory) (hm : m.Pairwise fun c d => c.1 < d.1)
    (h : ∀ c ∈ m, c.1 ≠ a) : (Memory.insert a v m).Pairwise fun c d => c.1 < d.1 := by
  induction m with
  | nil => simp [Memory.insert]
  | cons d m ih =>
    obtain ⟨k, w⟩ := d
    have hk : k ≠ a := h (k, w) (by simp)
    rw [List.pairwise_cons] at hm
    simp only [Memory.insert]
    split
    · next hlt =>
      refine List.pairwise_cons.2 ⟨fun c hc => ?_, List.pairwise_cons.2 hm⟩
      rcases List.mem_cons.1 hc with rfl | hc
      · exact hlt
      · exact Nat.lt_trans hlt (hm.1 c hc)
    · next hlt =>
      refine List.pairwise_cons.2 ⟨fun c hc => ?_, ih hm.2 fun c hc => h c (by simp [hc])⟩
      rcases (mem_insert_iff _ _ _ _).1 hc with rfl | hc
      · exact Nat.lt_of_le_of_ne (Nat.le_of_not_lt hlt) hk
      · exact hm.1 c hc

/-- Erasing a cell keeps the canonical form. -/
theorem wf_erase (m : Memory) (a : Nat) (hm : Memory.wf m) : Memory.wf (Memory.erase m a) :=
  ⟨hm.1.filter _, fun c hc => hm.2 c ((mem_erase_iff _ _ _).1 hc).1⟩

/-- A write inside the map keeps the canonical form. -/
theorem wf_write (m : Memory) (a : Nat) (v : Byte) (ha : a < 256) (hm : Memory.wf m) : Memory.wf (Memory.write m a v) := by
  have he := wf_erase m a hm
  unfold Memory.write
  split
  · exact he
  · next hv =>
    refine ⟨pairwise_insert a v _ he.1 fun c hc => ((mem_erase_iff _ _ _).1 hc).2, fun c hc => ?_⟩
    rcases (mem_insert_iff _ _ _ _).1 hc with rfl | hc
    · exact ⟨ha, hv⟩
    · exact he.2 c hc

/-- The map of the reset state is canonical. -/
theorem wf_nil : Memory.wf [] := by simp [Memory.wf]

/-- A canonical map in which every cell of the register space reads as its reset contents lists nothing. -/
theorem eq_nil_of_reads_reset (m : Memory) (hm : Memory.wf m) (h : ∀ a < 256, Memory.read m a = resetByte a) : m = [] := by
  cases m with
  | nil => rfl
  | cons c m =>
    obtain ⟨hlt, hne⟩ := hm.2 c (by simp)
    exact absurd ((read_of_listed _ hm.1 c.1 c.2 (by simp)).symm.trans (h c.1 hlt)) hne

end Sys2Proof.Machine
end

