-- ==== Sys2Proof/Laws/State.lean ====
section
/-! SUPPORT. Each named update of the state, field by field, so that no proof unfolds a record update. -/

namespace Sys2Proof.Machine

/-! ### `State.setReg` -/

@[simp] theorem setReg_mem (s : State) (a v : Byte) : (s.setReg a v).mem = Memory.write s.mem a.toNat v := rfl
@[simp] theorem setReg_address (s : State) (a v : Byte) : (s.setReg a v).address = s.address := rfl
@[simp] theorem setReg_newAddress (s : State) (a v : Byte) : (s.setReg a v).newAddress = s.newAddress := rfl
@[simp] theorem setReg_offset (s : State) (a v : Byte) : (s.setReg a v).offset = s.offset := rfl
@[simp] theorem setReg_bpos (s : State) (a v : Byte) : (s.setReg a v).bpos = s.bpos := rfl
@[simp] theorem setReg_enabled (s : State) (a v : Byte) : (s.setReg a v).enabled = s.enabled := rfl
@[simp] theorem setReg_tables (s : State) (a v : Byte) : (s.setReg a v).tables = s.tables := rfl
@[simp] theorem setReg_response (s : State) (a v : Byte) : (s.setReg a v).response = s.response := rfl
@[simp] theorem setReg_refreshPending (s : State) (a v : Byte) : (s.setReg a v).refreshPending = s.refreshPending := rfl
@[simp] theorem setReg_centre (s : State) (a v : Byte) : (s.setReg a v).centre = s.centre := rfl
@[simp] theorem setReg_centreDone (s : State) (a v : Byte) : (s.setReg a v).centreDone = s.centreDone := rfl
@[simp] theorem setReg_pending (s : State) (a v : Byte) : (s.setReg a v).pending = s.pending := rfl
@[simp] theorem setReg_phase (s : State) (a v : Byte) : (s.setReg a v).phase = s.phase := rfl
@[simp] theorem setReg_inputs (s : State) (a v : Byte) : (s.setReg a v).inputs = s.inputs := rfl
@[simp] theorem setReg_received (s : State) (a v : Byte) : (s.setReg a v).received = s.received := rfl
@[simp] theorem setReg_padDraws (s : State) (a v : Byte) : (s.setReg a v).padDraws = s.padDraws := rfl

/-! ### `State.select` -/

@[simp] theorem select_mem (s : State) (a : Byte) : (s.select a).mem = s.mem := rfl
@[simp] theorem select_address (s : State) (a : Byte) : (s.select a).address = a := rfl
@[simp] theorem select_newAddress (s : State) (a : Byte) : (s.select a).newAddress = true := rfl
@[simp] theorem select_offset (s : State) (a : Byte) : (s.select a).offset = 0 := rfl
@[simp] theorem select_bpos (s : State) (a : Byte) : (s.select a).bpos = 0 := rfl
@[simp] theorem select_enabled (s : State) (a : Byte) : (s.select a).enabled = s.enabled := rfl
@[simp] theorem select_tables (s : State) (a : Byte) : (s.select a).tables = s.tables := rfl
@[simp] theorem select_response (s : State) (a : Byte) : (s.select a).response = s.response := rfl
@[simp] theorem select_refreshPending (s : State) (a : Byte) : (s.select a).refreshPending = s.refreshPending := rfl
@[simp] theorem select_centre (s : State) (a : Byte) : (s.select a).centre = s.centre := rfl
@[simp] theorem select_centreDone (s : State) (a : Byte) : (s.select a).centreDone = s.centreDone := rfl
@[simp] theorem select_pending (s : State) (a : Byte) : (s.select a).pending = s.pending := rfl
@[simp] theorem select_phase (s : State) (a : Byte) : (s.select a).phase = s.phase := rfl
@[simp] theorem select_inputs (s : State) (a : Byte) : (s.select a).inputs = s.inputs := rfl
@[simp] theorem select_received (s : State) (a : Byte) : (s.select a).received = s.received := rfl
@[simp] theorem select_padDraws (s : State) (a : Byte) : (s.select a).padDraws = s.padDraws := rfl
@[simp] theorem select_reg (s : State) (a : Byte) (x : Byte) : (s.select a).reg x = s.reg x := rfl
@[simp] theorem select_activeTables (s : State) (a : Byte) : (s.select a).activeTables = s.activeTables := rfl
@[simp] theorem select_sentValue (s : State) (a : Byte) (m : Bool) (x : Byte) : (s.select a).sentValue m x = s.sentValue m x := rfl
@[simp] theorem select_window (s : State) (a : Byte) (m : Bool) (i n : Nat) : (s.select a).window m i n = s.window m i n := rfl
@[simp] theorem select_keyMaterial (s : State) (a : Byte) : (s.select a).keyMaterial = s.keyMaterial := rfl

/-! ### `State.clearNew` -/

@[simp] theorem clearNew_mem (s : State) : (s.clearNew).mem = s.mem := rfl
@[simp] theorem clearNew_address (s : State) : (s.clearNew).address = s.address := rfl
@[simp] theorem clearNew_newAddress (s : State) : (s.clearNew).newAddress = false := rfl
@[simp] theorem clearNew_offset (s : State) : (s.clearNew).offset = s.offset := rfl
@[simp] theorem clearNew_bpos (s : State) : (s.clearNew).bpos = s.bpos := rfl
@[simp] theorem clearNew_enabled (s : State) : (s.clearNew).enabled = s.enabled := rfl
@[simp] theorem clearNew_tables (s : State) : (s.clearNew).tables = s.tables := rfl
@[simp] theorem clearNew_response (s : State) : (s.clearNew).response = s.response := rfl
@[simp] theorem clearNew_refreshPending (s : State) : (s.clearNew).refreshPending = s.refreshPending := rfl
@[simp] theorem clearNew_centre (s : State) : (s.clearNew).centre = s.centre := rfl
@[simp] theorem clearNew_centreDone (s : State) : (s.clearNew).centreDone = s.centreDone := rfl
@[simp] theorem clearNew_pending (s : State) : (s.clearNew).pending = s.pending := rfl
@[simp] theorem clearNew_phase (s : State) : (s.clearNew).phase = s.phase := rfl
@[simp] theorem clearNew_inputs (s : State) : (s.clearNew).inputs = s.inputs := rfl
@[simp] theorem clearNew_received (s : State) : (s.clearNew).received = s.received := rfl
@[simp] theorem clearNew_padDraws (s : State) : (s.clearNew).padDraws = s.padDraws := rfl
@[simp] theorem clearNew_reg (s : State) (x : Byte) : (s.clearNew).reg x = s.reg x := rfl
@[simp] theorem clearNew_activeTables (s : State) : (s.clearNew).activeTables = s.activeTables := rfl
@[simp] theorem clearNew_sentValue (s : State) (m : Bool) (x : Byte) : (s.clearNew).sentValue m x = s.sentValue m x := rfl
@[simp] theorem clearNew_window (s : State) (m : Bool) (i n : Nat) : (s.clearNew).window m i n = s.window m i n := rfl
@[simp] theorem clearNew_keyMaterial (s : State) : (s.clearNew).keyMaterial = s.keyMaterial := rfl

/-! ### `State.setOffset` -/

@[simp] theorem setOffset_mem (s : State) (o : Nat) : (s.setOffset o).mem = s.mem := rfl
@[simp] theorem setOffset_address (s : State) (o : Nat) : (s.setOffset o).address = s.address := rfl
@[simp] theorem setOffset_newAddress (s : State) (o : Nat) : (s.setOffset o).newAddress = s.newAddress := rfl
@[simp] theorem setOffset_offset (s : State) (o : Nat) : (s.setOffset o).offset = o := rfl
@[simp] theorem setOffset_bpos (s : State) (o : Nat) : (s.setOffset o).bpos = s.bpos := rfl
@[simp] theorem setOffset_enabled (s : State) (o : Nat) : (s.setOffset o).enabled = s.enabled := rfl
@[simp] theorem setOffset_tables (s : State) (o : Nat) : (s.setOffset o).tables = s.tables := rfl
@[simp] theorem setOffset_response (s : State) (o : Nat) : (s.setOffset o).response = s.response := rfl
@[simp] theorem setOffset_refreshPending (s : State) (o : Nat) : (s.setOffset o).refreshPending = s.refreshPending := rfl
@[simp] theorem setOffset_centre (s : State) (o : Nat) : (s.setOffset o).centre = s.centre := rfl
@[simp] theorem setOffset_centreDone (s : State) (o : Nat) : (s.setOffset o).centreDone = s.centreDone := rfl
@[simp] theorem setOffset_pending (s : State) (o : Nat) : (s.setOffset o).pending = s.pending := rfl
@[simp] theorem setOffset_phase (s : State) (o : Nat) : (s.setOffset o).phase = s.phase := rfl
@[simp] theorem setOffset_inputs (s : State) (o : Nat) : (s.setOffset o).inputs = s.inputs := rfl
@[simp] theorem setOffset_received (s : State) (o : Nat) : (s.setOffset o).received = s.received := rfl
@[simp] theorem setOffset_padDraws (s : State) (o : Nat) : (s.setOffset o).padDraws = s.padDraws := rfl
@[simp] theorem setOffset_reg (s : State) (o : Nat) (x : Byte) : (s.setOffset o).reg x = s.reg x := rfl
@[simp] theorem setOffset_activeTables (s : State) (o : Nat) : (s.setOffset o).activeTables = s.activeTables := rfl
@[simp] theorem setOffset_sentValue (s : State) (o : Nat) (m : Bool) (x : Byte) : (s.setOffset o).sentValue m x = s.sentValue m x := rfl
@[simp] theorem setOffset_window (s : State) (o : Nat) (m : Bool) (i n : Nat) : (s.setOffset o).window m i n = s.window m i n := rfl
@[simp] theorem setOffset_keyMaterial (s : State) (o : Nat) : (s.setOffset o).keyMaterial = s.keyMaterial := rfl

/-! ### `State.setBpos` -/

@[simp] theorem setBpos_mem (s : State) (b : Nat) : (s.setBpos b).mem = s.mem := rfl
@[simp] theorem setBpos_address (s : State) (b : Nat) : (s.setBpos b).address = s.address := rfl
@[simp] theorem setBpos_newAddress (s : State) (b : Nat) : (s.setBpos b).newAddress = s.newAddress := rfl
@[simp] theorem setBpos_offset (s : State) (b : Nat) : (s.setBpos b).offset = s.offset := rfl
@[simp] theorem setBpos_bpos (s : State) (b : Nat) : (s.setBpos b).bpos = b := rfl
@[simp] theorem setBpos_enabled (s : State) (b : Nat) : (s.setBpos b).enabled = s.enabled := rfl
@[simp] theorem setBpos_tables (s : State) (b : Nat) : (s.setBpos b).tables = s.tables := rfl
@[simp] theorem setBpos_response (s : State) (b : Nat) : (s.setBpos b).response = s.response := rfl
@[simp] theorem setBpos_refreshPending (s : State) (b : Nat) : (s.setBpos b).refreshPending = s.refreshPending := rfl
@[simp] theorem setBpos_centre (s : State) (b : Nat) : (s.setBpos b).centre = s.centre := rfl
@[simp] theorem setBpos_centreDone (s : State) (b : Nat) : (s.setBpos b).centreDone = s.centreDone := rfl
@[simp] theorem setBpos_pending (s : State) (b : Nat) : (s.setBpos b).pending = s.pending := rfl
@[simp] theorem setBpos_phase (s : State) (b : Nat) : (s.setBpos b).phase = s.phase := rfl
@[simp] theorem setBpos_inputs (s : State) (b : Nat) : (s.setBpos b).inputs = s.inputs := rfl
@[simp] theorem setBpos_received (s : State) (b : Nat) : (s.setBpos b).received = s.received := rfl
@[simp] theorem setBpos_padDraws (s : State) (b : Nat) : (s.setBpos b).padDraws = s.padDraws := rfl
@[simp] theorem setBpos_reg (s : State) (b : Nat) (x : Byte) : (s.setBpos b).reg x = s.reg x := rfl
@[simp] theorem setBpos_activeTables (s : State) (b : Nat) : (s.setBpos b).activeTables = s.activeTables := rfl
@[simp] theorem setBpos_sentValue (s : State) (b : Nat) (m : Bool) (x : Byte) : (s.setBpos b).sentValue m x = s.sentValue m x := rfl
@[simp] theorem setBpos_window (s : State) (b : Nat) (m : Bool) (i n : Nat) : (s.setBpos b).window m i n = s.window m i n := rfl
@[simp] theorem setBpos_keyMaterial (s : State) (b : Nat) : (s.setBpos b).keyMaterial = s.keyMaterial := rfl

/-! ### `State.invalidate` -/

@[simp] theorem invalidate_mem (s : State) : (s.invalidate).mem = s.mem := rfl
@[simp] theorem invalidate_address (s : State) : (s.invalidate).address = s.address := rfl
@[simp] theorem invalidate_newAddress (s : State) : (s.invalidate).newAddress = s.newAddress := rfl
@[simp] theorem invalidate_offset (s : State) : (s.invalidate).offset = s.offset := rfl
@[simp] theorem invalidate_bpos (s : State) : (s.invalidate).bpos = s.bpos := rfl
@[simp] theorem invalidate_enabled (s : State) : (s.invalidate).enabled = false := rfl
@[simp] theorem invalidate_tables (s : State) : (s.invalidate).tables = none := rfl
@[simp] theorem invalidate_response (s : State) : (s.invalidate).response = s.response := rfl
@[simp] theorem invalidate_refreshPending (s : State) : (s.invalidate).refreshPending = s.refreshPending := rfl
@[simp] theorem invalidate_centre (s : State) : (s.invalidate).centre = s.centre := rfl
@[simp] theorem invalidate_centreDone (s : State) : (s.invalidate).centreDone = s.centreDone := rfl
@[simp] theorem invalidate_pending (s : State) : (s.invalidate).pending = s.pending := rfl
@[simp] theorem invalidate_phase (s : State) : (s.invalidate).phase = s.phase := rfl
@[simp] theorem invalidate_inputs (s : State) : (s.invalidate).inputs = s.inputs := rfl
@[simp] theorem invalidate_received (s : State) : (s.invalidate).received = s.received := rfl
@[simp] theorem invalidate_padDraws (s : State) : (s.invalidate).padDraws = s.padDraws := rfl
@[simp] theorem invalidate_reg (s : State) (x : Byte) : (s.invalidate).reg x = s.reg x := rfl
@[simp] theorem invalidate_keyMaterial (s : State) : (s.invalidate).keyMaterial = s.keyMaterial := rfl

/-! ### `State.install` -/

@[simp] theorem install_mem (s : State) (T : Tables) : (s.install T).mem = s.mem := rfl
@[simp] theorem install_address (s : State) (T : Tables) : (s.install T).address = s.address := rfl
@[simp] theorem install_newAddress (s : State) (T : Tables) : (s.install T).newAddress = s.newAddress := rfl
@[simp] theorem install_offset (s : State) (T : Tables) : (s.install T).offset = s.offset := rfl
@[simp] theorem install_bpos (s : State) (T : Tables) : (s.install T).bpos = s.bpos := rfl
@[simp] theorem install_enabled (s : State) (T : Tables) : (s.install T).enabled = true := rfl
@[simp] theorem install_tables (s : State) (T : Tables) : (s.install T).tables = some T := rfl
@[simp] theorem install_response (s : State) (T : Tables) : (s.install T).response = s.response := rfl
@[simp] theorem install_refreshPending (s : State) (T : Tables) : (s.install T).refreshPending = s.refreshPending := rfl
@[simp] theorem install_centre (s : State) (T : Tables) : (s.install T).centre = s.centre := rfl
@[simp] theorem install_centreDone (s : State) (T : Tables) : (s.install T).centreDone = s.centreDone := rfl
@[simp] theorem install_pending (s : State) (T : Tables) : (s.install T).pending = s.pending := rfl
@[simp] theorem install_phase (s : State) (T : Tables) : (s.install T).phase = s.phase := rfl
@[simp] theorem install_inputs (s : State) (T : Tables) : (s.install T).inputs = s.inputs := rfl
@[simp] theorem install_received (s : State) (T : Tables) : (s.install T).received = s.received := rfl
@[simp] theorem install_padDraws (s : State) (T : Tables) : (s.install T).padDraws = s.padDraws := rfl
@[simp] theorem install_reg (s : State) (T : Tables) (x : Byte) : (s.install T).reg x = s.reg x := rfl
@[simp] theorem install_keyMaterial (s : State) (T : Tables) : (s.install T).keyMaterial = s.keyMaterial := rfl

/-! ### `State.respond` -/

@[simp] theorem respond_mem (s : State) (seq : List Byte) : (s.respond seq).mem = s.mem := rfl
@[simp] theorem respond_address (s : State) (seq : List Byte) : (s.respond seq).address = s.address := rfl
@[simp] theorem respond_newAddress (s : State) (seq : List Byte) : (s.respond seq).newAddress = s.newAddress := rfl
@[simp] theorem respond_offset (s : State) (seq : List Byte) : (s.respond seq).offset = s.offset := rfl
@[simp] theorem respond_bpos (s : State) (seq : List Byte) : (s.respond seq).bpos = s.bpos := rfl
@[simp] theorem respond_enabled (s : State) (seq : List Byte) : (s.respond seq).enabled = s.enabled := rfl
@[simp] theorem respond_tables (s : State) (seq : List Byte) : (s.respond seq).tables = s.tables := rfl
@[simp] theorem respond_response (s : State) (seq : List Byte) : (s.respond seq).response = seq := rfl
@[simp] theorem respond_refreshPending (s : State) (seq : List Byte) : (s.respond seq).refreshPending = s.refreshPending := rfl
@[simp] theorem respond_centre (s : State) (seq : List Byte) : (s.respond seq).centre = s.centre := rfl
@[simp] theorem respond_centreDone (s : State) (seq : List Byte) : (s.respond seq).centreDone = s.centreDone := rfl
@[simp] theorem respond_pending (s : State) (seq : List Byte) : (s.respond seq).pending = s.pending := rfl
@[simp] theorem respond_phase (s : State) (seq : List Byte) : (s.respond seq).phase = s.phase := rfl
@[simp] theorem respond_inputs (s : State) (seq : List Byte) : (s.respond seq).inputs = s.inputs := rfl
@[simp] theorem respond_received (s : State) (seq : List Byte) : (s.respond seq).received = s.received := rfl
@[simp] theorem respond_padDraws (s : State) (seq : List Byte) : (s.respond seq).padDraws = s.padDraws := rfl
@[simp] theorem respond_reg (s : State) (seq : List Byte) (x : Byte) : (s.respond seq).reg x = s.reg x := rfl
@[simp] theorem respond_activeTables (s : State) (seq : List Byte) : (s.respond seq).activeTables = s.activeTables := rfl
@[simp] theorem respond_sentValue (s : State) (seq : List Byte) (m : Bool) (x : Byte) : (s.respond seq).sentValue m x = s.sentValue m x := rfl
@[simp] theorem respond_window (s : State) (seq : List Byte) (m : Bool) (i n : Nat) : (s.respond seq).window m i n = s.window m i n := rfl
@[simp] theorem respond_keyMaterial (s : State) (seq : List Byte) : (s.respond seq).keyMaterial = s.keyMaterial := rfl

/-! ### `State.signalRefresh` -/

@[simp] theorem signalRefresh_mem (s : State) (h : Bool) : (s.signalRefresh h).mem = s.mem := rfl
@[simp] theorem signalRefresh_address (s : State) (h : Bool) : (s.signalRefresh h).address = s.address := rfl
@[simp] theorem signalRefresh_newAddress (s : State) (h : Bool) : (s.signalRefresh h).newAddress = s.newAddress := rfl
@[simp] theorem signalRefresh_offset (s : State) (h : Bool) : (s.signalRefresh h).offset = s.offset := rfl
@[simp] theorem signalRefresh_bpos (s : State) (h : Bool) : (s.signalRefresh h).bpos = s.bpos := rfl
@[simp] theorem signalRefresh_enabled (s : State) (h : Bool) : (s.signalRefresh h).enabled = s.enabled := rfl
@[simp] theorem signalRefresh_tables (s : State) (h : Bool) : (s.signalRefresh h).tables = s.tables := rfl
@[simp] theorem signalRefresh_response (s : State) (h : Bool) : (s.signalRefresh h).response = s.response := rfl
@[simp] theorem signalRefresh_refreshPending (s : State) (h : Bool) : (s.signalRefresh h).refreshPending = if h then s.refreshPending + 1 else s.refreshPending := rfl
@[simp] theorem signalRefresh_centre (s : State) (h : Bool) : (s.signalRefresh h).centre = s.centre := rfl
@[simp] theorem signalRefresh_centreDone (s : State) (h : Bool) : (s.signalRefresh h).centreDone = s.centreDone := rfl
@[simp] theorem signalRefresh_pending (s : State) (h : Bool) : (s.signalRefresh h).pending = s.pending := rfl
@[simp] theorem signalRefresh_phase (s : State) (h : Bool) : (s.signalRefresh h).phase = s.phase := rfl
@[simp] theorem signalRefresh_inputs (s : State) (h : Bool) : (s.signalRefresh h).inputs = s.inputs := rfl
@[simp] theorem signalRefresh_received (s : State) (h : Bool) : (s.signalRefresh h).received = s.received := rfl
@[simp] theorem signalRefresh_padDraws (s : State) (h : Bool) : (s.signalRefresh h).padDraws = s.padDraws := rfl
@[simp] theorem signalRefresh_reg (s : State) (h : Bool) (x : Byte) : (s.signalRefresh h).reg x = s.reg x := rfl
@[simp] theorem signalRefresh_activeTables (s : State) (h : Bool) : (s.signalRefresh h).activeTables = s.activeTables := rfl
@[simp] theorem signalRefresh_sentValue (s : State) (h : Bool) (m : Bool) (x : Byte) : (s.signalRefresh h).sentValue m x = s.sentValue m x := rfl
@[simp] theorem signalRefresh_window (s : State) (h : Bool) (m : Bool) (i n : Nat) : (s.signalRefresh h).window m i n = s.window m i n := rfl
@[simp] theorem signalRefresh_keyMaterial (s : State) (h : Bool) : (s.signalRefresh h).keyMaterial = s.keyMaterial := rfl

/-! ### `State.consumeRefresh` -/

@[simp] theorem consumeRefresh_mem (s : State) (h : Bool) : (s.consumeRefresh h).mem = s.mem := rfl
@[simp] theorem consumeRefresh_address (s : State) (h : Bool) : (s.consumeRefresh h).address = s.address := rfl
@[simp] theorem consumeRefresh_newAddress (s : State) (h : Bool) : (s.consumeRefresh h).newAddress = s.newAddress := rfl
@[simp] theorem consumeRefresh_offset (s : State) (h : Bool) : (s.consumeRefresh h).offset = s.offset := rfl
@[simp] theorem consumeRefresh_bpos (s : State) (h : Bool) : (s.consumeRefresh h).bpos = s.bpos := rfl
@[simp] theorem consumeRefresh_enabled (s : State) (h : Bool) : (s.consumeRefresh h).enabled = s.enabled := rfl
@[simp] theorem consumeRefresh_tables (s : State) (h : Bool) : (s.consumeRefresh h).tables = s.tables := rfl
@[simp] theorem consumeRefresh_response (s : State) (h : Bool) : (s.consumeRefresh h).response = s.response := rfl
@[simp] theorem consumeRefresh_refreshPending (s : State) (h : Bool) : (s.consumeRefresh h).refreshPending = if h then s.refreshPending - 1 else s.refreshPending := rfl
@[simp] theorem consumeRefresh_centre (s : State) (h : Bool) : (s.consumeRefresh h).centre = s.centre := rfl
@[simp] theorem consumeRefresh_centreDone (s : State) (h : Bool) : (s.consumeRefresh h).centreDone = s.centreDone := rfl
@[simp] theorem consumeRefresh_pending (s : State) (h : Bool) : (s.consumeRefresh h).pending = s.pending := rfl
@[simp] theorem consumeRefresh_phase (s : State) (h : Bool) : (s.consumeRefresh h).phase = s.phase := rfl
@[simp] theorem consumeRefresh_inputs (s : State) (h : Bool) : (s.consumeRefresh h).inputs = s.inputs := rfl
@[simp] theorem consumeRefresh_received (s : State) (h : Bool) : (s.consumeRefresh h).received = s.received := rfl
@[simp] theorem consumeRefresh_padDraws (s : State) (h : Bool) : (s.consumeRefresh h).padDraws = s.padDraws := rfl
@[simp] theorem consumeRefresh_reg (s : State) (h : Bool) (x : Byte) : (s.consumeRefresh h).reg x = s.reg x := rfl
@[simp] theorem consumeRefresh_activeTables (s : State) (h : Bool) : (s.consumeRefresh h).activeTables = s.activeTables := rfl
@[simp] theorem consumeRefresh_sentValue (s : State) (h : Bool) (m : Bool) (x : Byte) : (s.consumeRefresh h).sentValue m x = s.sentValue m x := rfl
@[simp] theorem consumeRefresh_window (s : State) (h : Bool) (m : Bool) (i n : Nat) : (s.consumeRefresh h).window m i n = s.window m i n := rfl
@[simp] theorem consumeRefresh_keyMaterial (s : State) (h : Bool) : (s.consumeRefresh h).keyMaterial = s.keyMaterial := rfl

/-! ### `State.countCentre` -/

@[simp] theorem countCentre_mem (s : State) : (s.countCentre).mem = s.mem := rfl
@[simp] theorem countCentre_address (s : State) : (s.countCentre).address = s.address := rfl
@[simp] theorem countCentre_newAddress (s : State) : (s.countCentre).newAddress = s.newAddress := rfl
@[simp] theorem countCentre_offset (s : State) : (s.countCentre).offset = s.offset := rfl
@[simp] theorem countCentre_bpos (s : State) : (s.countCentre).bpos = s.bpos := rfl
@[simp] theorem countCentre_enabled (s : State) : (s.countCentre).enabled = s.enabled := rfl
@[simp] theorem countCentre_tables (s : State) : (s.countCentre).tables = s.tables := rfl
@[simp] theorem countCentre_response (s : State) : (s.countCentre).response = s.response := rfl
@[simp] theorem countCentre_refreshPending (s : State) : (s.countCentre).refreshPending = s.refreshPending := rfl
@[simp] theorem countCentre_centre (s : State) : (s.countCentre).centre = s.centre := rfl
@[simp] theorem countCentre_centreDone (s : State) : (s.countCentre).centreDone = s.centreDone + 1 := rfl
@[simp] theorem countCentre_pending (s : State) : (s.countCentre).pending = s.pending := rfl
@[simp] theorem countCentre_phase (s : State) : (s.countCentre).phase = s.phase := rfl
@[simp] theorem countCentre_inputs (s : State) : (s.countCentre).inputs = s.inputs := rfl
@[simp] theorem countCentre_received (s : State) : (s.countCentre).received = s.received := rfl
@[simp] theorem countCentre_padDraws (s : State) : (s.countCentre).padDraws = s.padDraws := rfl
@[simp] theorem countCentre_reg (s : State) (x : Byte) : (s.countCentre).reg x = s.reg x := rfl
@[simp] theorem countCentre_activeTables (s : State) : (s.countCentre).activeTables = s.activeTables := rfl
@[simp] theorem countCentre_sentValue (s : State) (m : Bool) (x : Byte) : (s.countCentre).sentValue m x = s.sentValue m x := rfl
@[simp] theorem countCentre_window (s : State) (m : Bool) (i n : Nat) : (s.countCentre).window m i n = s.window m i n := rfl
@[simp] theorem countCentre_keyMaterial (s : State) : (s.countCentre).keyMaterial = s.keyMaterial := rfl

/-! ### `State.encodeCentre` -/

@[simp] theorem encodeCentre_mem (s : State) : (s.encodeCentre).mem = s.mem := rfl
@[simp] theorem encodeCentre_address (s : State) : (s.encodeCentre).address = s.address := rfl
@[simp] theorem encodeCentre_newAddress (s : State) : (s.encodeCentre).newAddress = s.newAddress := rfl
@[simp] theorem encodeCentre_offset (s : State) : (s.encodeCentre).offset = s.offset := rfl
@[simp] theorem encodeCentre_bpos (s : State) : (s.encodeCentre).bpos = s.bpos := rfl
@[simp] theorem encodeCentre_enabled (s : State) : (s.encodeCentre).enabled = s.enabled := rfl
@[simp] theorem encodeCentre_tables (s : State) : (s.encodeCentre).tables = s.tables := rfl
@[simp] theorem encodeCentre_response (s : State) : (s.encodeCentre).response = s.response := rfl
@[simp] theorem encodeCentre_refreshPending (s : State) : (s.encodeCentre).refreshPending = s.refreshPending := rfl
@[simp] theorem encodeCentre_centre (s : State) : (s.encodeCentre).centre = some s.encodedCentre := rfl
@[simp] theorem encodeCentre_centreDone (s : State) : (s.encodeCentre).centreDone = s.centreDone := rfl
@[simp] theorem encodeCentre_pending (s : State) : (s.encodeCentre).pending = s.pending := rfl
@[simp] theorem encodeCentre_phase (s : State) : (s.encodeCentre).phase = s.phase := rfl
@[simp] theorem encodeCentre_inputs (s : State) : (s.encodeCentre).inputs = s.inputs := rfl
@[simp] theorem encodeCentre_received (s : State) : (s.encodeCentre).received = s.received := rfl
@[simp] theorem encodeCentre_padDraws (s : State) : (s.encodeCentre).padDraws = s.padDraws := rfl
@[simp] theorem encodeCentre_reg (s : State) (x : Byte) : (s.encodeCentre).reg x = s.reg x := rfl
@[simp] theorem encodeCentre_activeTables (s : State) : (s.encodeCentre).activeTables = s.activeTables := rfl
@[simp] theorem encodeCentre_sentValue (s : State) (m : Bool) (x : Byte) : (s.encodeCentre).sentValue m x = s.sentValue m x := rfl
@[simp] theorem encodeCentre_window (s : State) (m : Bool) (i n : Nat) : (s.encodeCentre).window m i n = s.window m i n := rfl
@[simp] theorem encodeCentre_keyMaterial (s : State) : (s.encodeCentre).keyMaterial = s.keyMaterial := rfl

/-! ### `State.restartCentre` -/

@[simp] theorem restartCentre_mem (s : State) : (s.restartCentre).mem = s.mem := rfl
@[simp] theorem restartCentre_address (s : State) : (s.restartCentre).address = s.address := rfl
@[simp] theorem restartCentre_newAddress (s : State) : (s.restartCentre).newAddress = s.newAddress := rfl
@[simp] theorem restartCentre_offset (s : State) : (s.restartCentre).offset = s.offset := rfl
@[simp] theorem restartCentre_bpos (s : State) : (s.restartCentre).bpos = s.bpos := rfl
@[simp] theorem restartCentre_enabled (s : State) : (s.restartCentre).enabled = s.enabled := rfl
@[simp] theorem restartCentre_tables (s : State) : (s.restartCentre).tables = s.tables := rfl
@[simp] theorem restartCentre_response (s : State) : (s.restartCentre).response = s.response := rfl
@[simp] theorem restartCentre_refreshPending (s : State) : (s.restartCentre).refreshPending = s.refreshPending := rfl
@[simp] theorem restartCentre_centre (s : State) : (s.restartCentre).centre = none := rfl
@[simp] theorem restartCentre_centreDone (s : State) : (s.restartCentre).centreDone = 0 := rfl
@[simp] theorem restartCentre_pending (s : State) : (s.restartCentre).pending = s.pending := rfl
@[simp] theorem restartCentre_phase (s : State) : (s.restartCentre).phase = s.phase := rfl
@[simp] theorem restartCentre_inputs (s : State) : (s.restartCentre).inputs = s.inputs := rfl
@[simp] theorem restartCentre_received (s : State) : (s.restartCentre).received = s.received := rfl
@[simp] theorem restartCentre_padDraws (s : State) : (s.restartCentre).padDraws = s.padDraws := rfl
@[simp] theorem restartCentre_reg (s : State) (x : Byte) : (s.restartCentre).reg x = s.reg x := rfl
@[simp] theorem restartCentre_activeTables (s : State) : (s.restartCentre).activeTables = s.activeTables := rfl
@[simp] theorem restartCentre_sentValue (s : State) (m : Bool) (x : Byte) : (s.restartCentre).sentValue m x = s.sentValue m x := rfl
@[simp] theorem restartCentre_window (s : State) (m : Bool) (i n : Nat) : (s.restartCentre).window m i n = s.window m i n := rfl
@[simp] theorem restartCentre_keyMaterial (s : State) : (s.restartCentre).keyMaterial = s.keyMaterial := rfl

/-! ### `State.setPending` -/

@[simp] theorem setPending_mem (s : State) (es : List BusEvent) : (s.setPending es).mem = s.mem := rfl
@[simp] theorem setPending_address (s : State) (es : List BusEvent) : (s.setPending es).address = s.address := rfl
@[simp] theorem setPending_newAddress (s : State) (es : List BusEvent) : (s.setPending es).newAddress = s.newAddress := rfl
@[simp] theorem setPending_offset (s : State) (es : List BusEvent) : (s.setPending es).offset = s.offset := rfl
@[simp] theorem setPending_bpos (s : State) (es : List BusEvent) : (s.setPending es).bpos = s.bpos := rfl
@[simp] theorem setPending_enabled (s : State) (es : List BusEvent) : (s.setPending es).enabled = s.enabled := rfl
@[simp] theorem setPending_tables (s : State) (es : List BusEvent) : (s.setPending es).tables = s.tables := rfl
@[simp] theorem setPending_response (s : State) (es : List BusEvent) : (s.setPending es).response = s.response := rfl
@[simp] theorem setPending_refreshPending (s : State) (es : List BusEvent) : (s.setPending es).refreshPending = s.refreshPending := rfl
@[simp] theorem setPending_centre (s : State) (es : List BusEvent) : (s.setPending es).centre = s.centre := rfl
@[simp] theorem setPending_centreDone (s : State) (es : List BusEvent) : (s.setPending es).centreDone = s.centreDone := rfl
@[simp] theorem setPending_pending (s : State) (es : List BusEvent) : (s.setPending es).pending = es := rfl
@[simp] theorem setPending_phase (s : State) (es : List BusEvent) : (s.setPending es).phase = s.phase := rfl
@[simp] theorem setPending_inputs (s : State) (es : List BusEvent) : (s.setPending es).inputs = s.inputs := rfl
@[simp] theorem setPending_received (s : State) (es : List BusEvent) : (s.setPending es).received = s.received := rfl
@[simp] theorem setPending_padDraws (s : State) (es : List BusEvent) : (s.setPending es).padDraws = s.padDraws := rfl
@[simp] theorem setPending_reg (s : State) (es : List BusEvent) (x : Byte) : (s.setPending es).reg x = s.reg x := rfl
@[simp] theorem setPending_activeTables (s : State) (es : List BusEvent) : (s.setPending es).activeTables = s.activeTables := rfl
@[simp] theorem setPending_sentValue (s : State) (es : List BusEvent) (m : Bool) (x : Byte) : (s.setPending es).sentValue m x = s.sentValue m x := rfl
@[simp] theorem setPending_window (s : State) (es : List BusEvent) (m : Bool) (i n : Nat) : (s.setPending es).window m i n = s.window m i n := rfl
@[simp] theorem setPending_keyMaterial (s : State) (es : List BusEvent) : (s.setPending es).keyMaterial = s.keyMaterial := rfl

/-! ### `State.arrive` -/

@[simp] theorem arrive_mem (s : State) (es : List BusEvent) : (s.arrive es).mem = s.mem := rfl
@[simp] theorem arrive_address (s : State) (es : List BusEvent) : (s.arrive es).address = s.address := rfl
@[simp] theorem arrive_newAddress (s : State) (es : List BusEvent) : (s.arrive es).newAddress = s.newAddress := rfl
@[simp] theorem arrive_offset (s : State) (es : List BusEvent) : (s.arrive es).offset = s.offset := rfl
@[simp] theorem arrive_bpos (s : State) (es : List BusEvent) : (s.arrive es).bpos = s.bpos := rfl
@[simp] theorem arrive_enabled (s : State) (es : List BusEvent) : (s.arrive es).enabled = s.enabled := rfl
@[simp] theorem arrive_tables (s : State) (es : List BusEvent) : (s.arrive es).tables = s.tables := rfl
@[simp] theorem arrive_response (s : State) (es : List BusEvent) : (s.arrive es).response = s.response := rfl
@[simp] theorem arrive_refreshPending (s : State) (es : List BusEvent) : (s.arrive es).refreshPending = s.refreshPending := rfl
@[simp] theorem arrive_centre (s : State) (es : List BusEvent) : (s.arrive es).centre = s.centre := rfl
@[simp] theorem arrive_centreDone (s : State) (es : List BusEvent) : (s.arrive es).centreDone = s.centreDone := rfl
@[simp] theorem arrive_pending (s : State) (es : List BusEvent) : (s.arrive es).pending = s.pending ++ es := rfl
@[simp] theorem arrive_phase (s : State) (es : List BusEvent) : (s.arrive es).phase = s.phase := rfl
@[simp] theorem arrive_inputs (s : State) (es : List BusEvent) : (s.arrive es).inputs = s.inputs := rfl
@[simp] theorem arrive_received (s : State) (es : List BusEvent) : (s.arrive es).received = s.received := rfl
@[simp] theorem arrive_padDraws (s : State) (es : List BusEvent) : (s.arrive es).padDraws = s.padDraws := rfl
@[simp] theorem arrive_reg (s : State) (es : List BusEvent) (x : Byte) : (s.arrive es).reg x = s.reg x := rfl
@[simp] theorem arrive_activeTables (s : State) (es : List BusEvent) : (s.arrive es).activeTables = s.activeTables := rfl
@[simp] theorem arrive_sentValue (s : State) (es : List BusEvent) (m : Bool) (x : Byte) : (s.arrive es).sentValue m x = s.sentValue m x := rfl
@[simp] theorem arrive_window (s : State) (es : List BusEvent) (m : Bool) (i n : Nat) : (s.arrive es).window m i n = s.window m i n := rfl
@[simp] theorem arrive_keyMaterial (s : State) (es : List BusEvent) : (s.arrive es).keyMaterial = s.keyMaterial := rfl

/-! ### `State.setInputs` -/

@[simp] theorem setInputs_mem (s : State) (is : List Input) : (s.setInputs is).mem = s.mem := rfl
@[simp] theorem setInputs_address (s : State) (is : List Input) : (s.setInputs is).address = s.address := rfl
@[simp] theorem setInputs_newAddress (s : State) (is : List Input) : (s.setInputs is).newAddress = s.newAddress := rfl
@[simp] theorem setInputs_offset (s : State) (is : List Input) : (s.setInputs is).offset = s.offset := rfl
@[simp] theorem setInputs_bpos (s : State) (is : List Input) : (s.setInputs is).bpos = s.bpos := rfl
@[simp] theorem setInputs_enabled (s : State) (is : List Input) : (s.setInputs is).enabled = s.enabled := rfl
@[simp] theorem setInputs_tables (s : State) (is : List Input) : (s.setInputs is).tables = s.tables := rfl
@[simp] theorem setInputs_response (s : State) (is : List Input) : (s.setInputs is).response = s.response := rfl
@[simp] theorem setInputs_refreshPending (s : State) (is : List Input) : (s.setInputs is).refreshPending = s.refreshPending := rfl
@[simp] theorem setInputs_centre (s : State) (is : List Input) : (s.setInputs is).centre = s.centre := rfl
@[simp] theorem setInputs_centreDone (s : State) (is : List Input) : (s.setInputs is).centreDone = s.centreDone := rfl
@[simp] theorem setInputs_pending (s : State) (is : List Input) : (s.setInputs is).pending = s.pending := rfl
@[simp] theorem setInputs_phase (s : State) (is : List Input) : (s.setInputs is).phase = s.phase := rfl
@[simp] theorem setInputs_inputs (s : State) (is : List Input) : (s.setInputs is).inputs = is := rfl
@[simp] theorem setInputs_received (s : State) (is : List Input) : (s.setInputs is).received = s.received := rfl
@[simp] theorem setInputs_padDraws (s : State) (is : List Input) : (s.setInputs is).padDraws = s.padDraws := rfl
@[simp] theorem setInputs_reg (s : State) (is : List Input) (x : Byte) : (s.setInputs is).reg x = s.reg x := rfl
@[simp] theorem setInputs_activeTables (s : State) (is : List Input) : (s.setInputs is).activeTables = s.activeTables := rfl
@[simp] theorem setInputs_sentValue (s : State) (is : List Input) (m : Bool) (x : Byte) : (s.setInputs is).sentValue m x = s.sentValue m x := rfl
@[simp] theorem setInputs_window (s : State) (is : List Input) (m : Bool) (i n : Nat) : (s.setInputs is).window m i n = s.window m i n := rfl
@[simp] theorem setInputs_keyMaterial (s : State) (is : List Input) : (s.setInputs is).keyMaterial = s.keyMaterial := rfl

/-! ### `State.setPhase` -/

@[simp] theorem setPhase_mem (s : State) (p : Phase) : (s.setPhase p).mem = s.mem := rfl
@[simp] theorem setPhase_address (s : State) (p : Phase) : (s.setPhase p).address = s.address := rfl
@[simp] theorem setPhase_newAddress (s : State) (p : Phase) : (s.setPhase p).newAddress = s.newAddress := rfl
@[simp] theorem setPhase_offset (s : State) (p : Phase) : (s.setPhase p).offset = s.offset := rfl
@[simp] theorem setPhase_bpos (s : State) (p : Phase) : (s.setPhase p).bpos = s.bpos := rfl
@[simp] theorem setPhase_enabled (s : State) (p : Phase) : (s.setPhase p).enabled = s.enabled := rfl
@[simp] theorem setPhase_tables (s : State) (p : Phase) : (s.setPhase p).tables = s.tables := rfl
@[simp] theorem setPhase_response (s : State) (p : Phase) : (s.setPhase p).response = s.response := rfl
@[simp] theorem setPhase_refreshPending (s : State) (p : Phase) : (s.setPhase p).refreshPending = s.refreshPending := rfl
@[simp] theorem setPhase_centre (s : State) (p : Phase) : (s.setPhase p).centre = s.centre := rfl
@[simp] theorem setPhase_centreDone (s : State) (p : Phase) : (s.setPhase p).centreDone = s.centreDone := rfl
@[simp] theorem setPhase_pending (s : State) (p : Phase) : (s.setPhase p).pending = s.pending := rfl
@[simp] theorem setPhase_phase (s : State) (p : Phase) : (s.setPhase p).phase = p := rfl
@[simp] theorem setPhase_inputs (s : State) (p : Phase) : (s.setPhase p).inputs = s.inputs := rfl
@[simp] theorem setPhase_received (s : State) (p : Phase) : (s.setPhase p).received = s.received := rfl
@[simp] theorem setPhase_padDraws (s : State) (p : Phase) : (s.setPhase p).padDraws = s.padDraws := rfl
@[simp] theorem setPhase_reg (s : State) (p : Phase) (x : Byte) : (s.setPhase p).reg x = s.reg x := rfl
@[simp] theorem setPhase_activeTables (s : State) (p : Phase) : (s.setPhase p).activeTables = s.activeTables := rfl
@[simp] theorem setPhase_sentValue (s : State) (p : Phase) (m : Bool) (x : Byte) : (s.setPhase p).sentValue m x = s.sentValue m x := rfl
@[simp] theorem setPhase_window (s : State) (p : Phase) (m : Bool) (i n : Nat) : (s.setPhase p).window m i n = s.window m i n := rfl
@[simp] theorem setPhase_keyMaterial (s : State) (p : Phase) : (s.setPhase p).keyMaterial = s.keyMaterial := rfl

/-! ### `State.transmit` -/

@[simp] theorem transmit_mem (s : State) (k : Option Nat) : (s.transmit k).mem = s.mem := rfl
@[simp] theorem transmit_address (s : State) (k : Option Nat) : (s.transmit k).address = s.address := rfl
@[simp] theorem transmit_newAddress (s : State) (k : Option Nat) : (s.transmit k).newAddress = s.newAddress := rfl
@[simp] theorem transmit_offset (s : State) (k : Option Nat) : (s.transmit k).offset = s.offset := rfl
@[simp] theorem transmit_bpos (s : State) (k : Option Nat) : (s.transmit k).bpos = s.bpos := rfl
@[simp] theorem transmit_enabled (s : State) (k : Option Nat) : (s.transmit k).enabled = s.enabled := rfl
@[simp] theorem transmit_tables (s : State) (k : Option Nat) : (s.transmit k).tables = s.tables := rfl
@[simp] theorem transmit_response (s : State) (k : Option Nat) : (s.transmit k).response = s.response := rfl
@[simp] theorem transmit_refreshPending (s : State) (k : Option Nat) : (s.transmit k).refreshPending = s.refreshPending := rfl
@[simp] theorem transmit_centre (s : State) (k : Option Nat) : (s.transmit k).centre = s.centre := rfl
@[simp] theorem transmit_centreDone (s : State) (k : Option Nat) : (s.transmit k).centreDone = s.centreDone := rfl
@[simp] theorem transmit_pending (s : State) (k : Option Nat) : (s.transmit k).pending = s.pending := rfl
@[simp] theorem transmit_phase (s : State) (k : Option Nat) : (s.transmit k).phase = s.phase := rfl
@[simp] theorem transmit_inputs (s : State) (k : Option Nat) : (s.transmit k).inputs = s.inputs := rfl
@[simp] theorem transmit_received (s : State) (k : Option Nat) : (s.transmit k).received = s.received ++ [clocked k s.response s.padDraws] := rfl
@[simp] theorem transmit_padDraws (s : State) (k : Option Nat) : (s.transmit k).padDraws = s.padDraws + padCount k s.response.length := rfl
@[simp] theorem transmit_reg (s : State) (k : Option Nat) (x : Byte) : (s.transmit k).reg x = s.reg x := rfl
@[simp] theorem transmit_activeTables (s : State) (k : Option Nat) : (s.transmit k).activeTables = s.activeTables := rfl
@[simp] theorem transmit_sentValue (s : State) (k : Option Nat) (m : Bool) (x : Byte) : (s.transmit k).sentValue m x = s.sentValue m x := rfl
@[simp] theorem transmit_window (s : State) (k : Option Nat) (m : Bool) (i n : Nat) : (s.transmit k).window m i n = s.window m i n := rfl
@[simp] theorem transmit_keyMaterial (s : State) (k : Option Nat) : (s.transmit k).keyMaterial = s.keyMaterial := rfl

end Sys2Proof.Machine
end

