-- ==== Sys2Proof/Laws/Registers.lean ====
section
/-! SUPPORT. The register map seen through `reg`: what each store and each sequence of stores leaves in every register. -/

namespace Sys2Proof.Machine

/-- A store reaches its own register and no other. -/
theorem setReg_reg (s : State) (a v b : Byte) : (s.setReg a v).reg b = if b = a then v else s.reg b := by
  unfold State.reg
  rw [setReg_mem, read_write]
  by_cases h : b = a
  · simp [h]
  · simp [h, show a.toNat ≠ b.toNat from fun e => h (BitVec.eq_of_toNat_eq e.symm)]

@[simp] theorem setReg_reg_same (s : State) (a v : Byte) : (s.setReg a v).reg a = v := by simp [setReg_reg]

theorem setReg_reg_other (s : State) (a v b : Byte) (h : b ≠ a) : (s.setReg a v).reg b = s.reg b := by
  simp [setReg_reg, h]

/-- A store keeps the canonical form. -/
theorem setReg_wf (s : State) (a v : Byte) (h : Memory.wf s.mem) : Memory.wf (s.setReg a v).mem :=
  wf_write _ _ _ a.isLt h

@[simp] theorem setReg_activeTables (s : State) (a v : Byte) : (s.setReg a v).activeTables = s.activeTables := rfl

/-- Two changes of the register map alone make one. -/
theorem onlyMem_trans {s t u : State} (h1 : t = { s with mem := t.mem }) (h2 : u = { t with mem := u.mem }) :
    u = { s with mem := u.mem } :=
  h2.trans (by rw [h1])

/-- A store changes the register map and nothing else. -/
theorem setReg_frame (s : State) (a v : Byte) : s.setReg a v = { s with mem := (s.setReg a v).mem } := rfl

/-- Stores change the register map and nothing else. -/
theorem storeBytes_frame (s : State) (a : Byte) (vs : List Byte) :
    s.storeBytes a vs = { s with mem := (s.storeBytes a vs).mem } := by
  induction vs generalizing s a with
  | nil => rfl
  | cons v vs ih =>
    rw [State.storeBytes, ih]
    rfl

theorem storeBytes_wf (s : State) (a : Byte) (vs : List Byte) (h : Memory.wf s.mem) :
    Memory.wf (s.storeBytes a vs).mem := by
  induction vs generalizing s a with
  | nil => exact h
  | cons v vs ih => exact ih _ _ (setReg_wf s a v h)

/-- The distance from `a` to `b` going up, less one, once it is not zero. -/
theorem sub_succ_toNat (a b : Byte) (h : b ≠ a) : (b - (a + 1)).toNat = (b - a).toNat - 1 ∧ 0 < (b - a).toNat := by
  have : b - a ≠ 0 := by
    intro e
    apply h
    have := congrArg (· + a) e
    simpa using this
  bv_omega

/-- What every register holds after at most 256 ascending stores. -/
theorem storeBytes_reg (s : State) (a : Byte) (vs : List Byte) (hl : vs.length ≤ 256) (b : Byte) :
    (s.storeBytes a vs).reg b = (vs[(b - a).toNat]?).getD (s.reg b) := by
  induction vs generalizing s a with
  | nil => simp [State.storeBytes]
  | cons v vs ih =>
    rw [State.storeBytes, ih _ _ (by simp only [List.length_cons] at hl; omega)]
    by_cases h : b = a
    · subst h
      have h1 : (b - (b + 1)).toNat = 255 := by
        have : b - (b + 1) = -1 := by bv_omega
        rw [this]; rfl
      have h2 : vs[255]? = none := List.getElem?_eq_none (by simp only [List.length_cons] at hl; omega)
      rw [h1, h2]
      simp
    · obtain ⟨h1, h2⟩ := sub_succ_toNat a b h
      obtain ⟨n, hn⟩ : ∃ n, (b - a).toNat = n + 1 := ⟨(b - a).toNat - 1, by omega⟩
      rw [h1, hn, setReg_reg_other s a v b h]
      simp

/-- A register that no store reaches keeps its value. -/
theorem storeBytes_reg_other (s : State) (a : Byte) (vs : List Byte) (b : Byte)
    (h : ∀ i < vs.length, a + BitVec.ofNat 8 i ≠ b) : (s.storeBytes a vs).reg b = s.reg b := by
  induction vs generalizing s a with
  | nil => rfl
  | cons v vs ih =>
    rw [State.storeBytes, ih]
    · refine setReg_reg_other s a v b fun e => h 0 (by simp) ?_
      simp [e]
    · intro i hi e
      refine h (i + 1) (by simpa using hi) ?_
      rw [← e]
      bv_omega

/-- The key material is the 16 registers of the key area. -/
theorem keyMaterial_eq_of_reg (s t : State) (h : ∀ j < 16, s.reg (0x40 + BitVec.ofNat 8 j) = t.reg (0x40 + BitVec.ofNat 8 j)) :
    s.keyMaterial = t.keyMaterial := by
  unfold State.keyMaterial
  congr 1
  funext j
  exact h j.val j.isLt

end Sys2Proof.Machine
end

