-- ==== Sys2Proof/Laws/Foreground.lean ====
section
/-! SUPPORT. The body of a critical section, and the stores of the centre report. -/

namespace Sys2Proof.Machine

/-- A critical section changes the register map and nothing else. -/
theorem fgBody_frame (s : State) (body : List FgAccess) : s.fgBody body = { s with mem := (s.fgBody body).mem } := by
  induction body generalizing s with
  | nil => rfl
  | cons x xs ih =>
    rw [State.fgBody, ih]
    cases x <;> rfl

theorem fgBody_wf (s : State) (body : List FgAccess) (h : Memory.wf s.mem) : Memory.wf (s.fgBody body).mem := by
  induction body generalizing s with
  | nil => exact h
  | cons x xs ih =>
    refine ih _ ?_
    cases x with
    | read a => exact h
    | store a v => exact setReg_wf s a v h

theorem fgBody_append (s : State) (xs ys : List FgAccess) : s.fgBody (xs ++ ys) = (s.fgBody xs).fgBody ys := by
  induction xs generalizing s with
  | nil => rfl
  | cons x xs ih => exact ih _

/-- A register that no store of the body names keeps its value. -/
theorem fgBody_reg_other (s : State) (body : List FgAccess) (b : Byte) (h : ∀ v, FgAccess.store b v ∉ body) :
    (s.fgBody body).reg b = s.reg b := by
  induction body generalizing s with
  | nil => rfl
  | cons x xs ih =>
    rw [State.fgBody, ih _ fun v hv => h v (by simp [hv])]
    cases x with
    | read a => rfl
    | store a v => exact setReg_reg_other s a v b fun e => h v (by simp [e])

/-! ### The centre report -/

/-- Every byte of the layout, each once, in the order F stores them. -/
theorem centreOrder_perm (l : EncoderLayout) :
    (centreOrder l).Perm ((List.finRange 8).filter fun i => i.val < l.bytes) :=
  List.perm_insertionSort _ _

theorem mem_centreOrder (l : EncoderLayout) (i : Fin 8) : i ∈ centreOrder l ↔ i.val < l.bytes := by
  simp [(centreOrder_perm l).mem_iff]

@[simp] theorem centreOrder_length (l : EncoderLayout) : (centreOrder l).length = l.bytes := by
  rw [(centreOrder_perm l).length_eq]
  cases l <;> rfl

@[simp] theorem centreStores_length (r : CentreReport) : (centreStores r).length = r.layout.bytes := by
  rw [centreStores, List.length_map, centreOrder_length]

/-- Every layout fills a byte, and none more than the report window. -/
theorem layout_bytes (l : EncoderLayout) : 0 < l.bytes ∧ l.bytes ≤ 8 := by cases l <;> decide

/-- A store that is due stores one byte of the centre report. -/
theorem mem_centreStores (r : CentreReport) (op : FgOp) (h : op ∈ centreStores r) :
    ∃ i : Fin 8, i.val < r.layout.bytes ∧ op = .store (BitVec.ofNat 8 i) r.bytes[i] := by
  obtain ⟨i, hi, rfl⟩ := List.mem_map.1 h
  exact ⟨i, (mem_centreOrder _ i).1 hi, rfl⟩

/-- F's first steps store to the report area. -/
theorem centreStores_wellFormed (r : CentreReport) (op : FgOp) (h : op ∈ centreStores r) : op.wellFormed = true := by
  obtain ⟨i, -, rfl⟩ := mem_centreStores r op h
  simp only [FgOp.wellFormed, inReportArea, decide_eq_true_eq]
  have : (BitVec.ofNat 8 i.val).toNat < 8 := by simp; omega
  exact this

/-- F encodes the centre report exactly when it has not yet. -/
theorem centreDue_encode (s : State) : s.centreDue = some .encode ↔ s.centre = none := by
  cases h : s.centre <;> simp [State.centreDue, h]

/-- A store that is due is the next one of the encoded report. -/
theorem centreDue_store (s : State) (op : FgOp) :
    s.centreDue = some (.store op) ↔ ∃ r, s.centre = some r ∧ (centreStores r)[s.centreDone]? = some op := by
  cases h : s.centre <;> simp [State.centreDue, h]

/-- Nothing is due exactly when the report is encoded and every byte of it is stored. -/
theorem centreDue_none (s : State) :
    s.centreDue = none ↔ ∃ r, s.centre = some r ∧ (centreStores r).length ≤ s.centreDone := by
  cases h : s.centre <;> simp [State.centreDue, h]

end Sys2Proof.Machine
end

