-- ==== Sys2Proof/Laws/Init.lean ====
section
/-! SUPPORT. Each stage of initialisation, register by register. -/

namespace Sys2Proof.Machine

theorem initZero_reg (s : State) (b : Byte) : s.initZero.reg b = 0x00 := by
  rw [State.initZero, storeBytes_reg _ _ _ (by rw [List.length_replicate]), List.getElem?_replicate, if_pos (b - 0x00).isLt]
  rfl

theorem initCalibration_reg (s : State) (b : Byte) :
    s.initCalibration.reg b =
      if 0x20 ≤ b.toNat ∧ b.toNat < 0x30 then calByte (b.toNat - 0x20) else s.reg b := by
  rw [State.initCalibration, setReg_reg, setReg_reg, storeBytes_reg _ _ _ (by simp)]
  by_cases h1 : b = 0x2F
  · subst h1; simp [calByte]
  by_cases h2 : b = 0x2E
  · subst h2; simp [calByte]
  rw [if_neg h1, if_neg h2]
  by_cases h : 0x20 ≤ b.toNat ∧ b.toNat < 0x30
  · have e : (b - 0x20).toNat = b.toNat - 0x20 := by bv_omega
    have lt : b.toNat - 0x20 < 14 := by bv_omega
    rw [if_pos h, e]
    simp [calByte, lt]
  · have ge : ¬ (b - 0x20).toNat < Config.calData.toList.length := by
      simp only [Vector.length_toList]
      bv_omega
    rw [if_neg h, List.getElem?_eq_none (Nat.le_of_not_lt ge)]
    rfl

theorem readBytes_getElem? (s : State) (a : Byte) (n j : Nat) :
    (s.readBytes a n)[j]? = if j < n then some (s.reg (a + BitVec.ofNat 8 j)) else none := by
  by_cases h : j < n <;> simp [State.readBytes, h]

theorem initCopy_reg (s : State) (b : Byte) :
    s.initCopy.reg b = if 0x30 ≤ b.toNat ∧ b.toNat < 0x40 then s.reg (b - 0x10) else s.reg b := by
  rw [State.initCopy, storeBytes_reg _ _ _ (by simp [State.readBytes]), readBytes_getElem?]
  by_cases h : 0x30 ≤ b.toNat ∧ b.toNat < 0x40
  · have lt : (b - 0x30).toNat < 16 := by bv_omega
    have e : (0x20 : Byte) + BitVec.ofNat 8 (b - 0x30).toNat = b - 0x10 := by bv_omega
    rw [if_pos h, if_pos lt, e]
    rfl
  · have ge : ¬ (b - 0x30).toNat < 16 := by bv_omega
    rw [if_neg h, if_neg ge]
    rfl

theorem initId_reg (s : State) (b : Byte) :
    s.initId.reg b = if h : 0xFA ≤ b.toNat then Config.idBytes[b.toNat - 0xFA]'(by omega) else s.reg b := by
  rw [State.initId, storeBytes_reg _ _ _ (by simp)]
  by_cases h : 0xFA ≤ b.toNat
  · have e : (b - 0xFA).toNat = b.toNat - 0xFA := by bv_omega
    have lt : b.toNat - 0xFA < 6 := by omega
    rw [dif_pos h, e]
    simp [lt]
  · have ge : ¬ (b - 0xFA).toNat < Config.idBytes.toList.length := by
      simp only [Vector.length_toList]
      bv_omega
    rw [dif_neg h, List.getElem?_eq_none (Nat.le_of_not_lt ge)]
    rfl

/-- The register map that initialisation builds. -/
def State.initMap (s : State) : State := s.initZero.initCalibration.initCopy.initId

/-- After initialisation every register reads as its reset contents. -/
theorem initMap_reg (s : State) (b : Byte) : s.initMap.reg b = resetByte b.toNat := by
  have hb := b.isLt
  rw [State.initMap, initId_reg, resetByte]
  by_cases h1 : 0xFA ≤ b.toNat
  · rw [dif_pos h1, if_neg (by omega), if_neg (by omega), dif_pos ⟨h1, hb⟩]
  rw [dif_neg h1, initCopy_reg]
  by_cases h2 : 0x30 ≤ b.toNat ∧ b.toNat < 0x40
  · have e : (b - 0x10).toNat = b.toNat - 0x10 := by bv_omega
    rw [if_pos h2, initCalibration_reg, e, if_pos (by omega), if_neg (by omega), if_pos h2]
    congr 1
  rw [if_neg h2, initCalibration_reg]
  by_cases h3 : 0x20 ≤ b.toNat ∧ b.toNat < 0x30
  · rw [if_pos h3, if_pos h3]
  · rw [if_neg h3, initZero_reg, if_neg h3, if_neg h2, dif_neg (by omega)]

theorem initMap_frame (s : State) : s.initMap = { s with mem := s.initMap.mem } :=
  onlyMem_trans
    (onlyMem_trans
      (onlyMem_trans
        (onlyMem_trans
          (onlyMem_trans (storeBytes_frame s _ _) (storeBytes_frame s.initZero 0x20 Config.calData.toList))
          (setReg_frame _ 0x2E _))
        (setReg_frame _ 0x2F _))
      (storeBytes_frame _ _ _))
    (storeBytes_frame _ _ _)

theorem initMap_wf (s : State) (h : Memory.wf s.mem) : Memory.wf s.initMap.mem :=
  storeBytes_wf _ _ _ (storeBytes_wf _ _ _ (setReg_wf _ _ _ (setReg_wf _ _ _ (storeBytes_wf _ _ _ (storeBytes_wf _ _ _ h)))))

/-- Initialisation of a canonical map leaves a map that lists nothing. -/
theorem initMap_mem (s : State) (h : Memory.wf s.mem) : s.initMap.mem = [] := by
  refine eq_nil_of_reads_reset _ (initMap_wf s h) fun a ha => ?_
  have := initMap_reg s (BitVec.ofNat 8 a)
  simpa [State.reg, Nat.mod_eq_of_lt ha] using this

/-- Everything `INIT` does. -/
theorem execInit_eq (s : State) :
    execInit s =
      .next
        { s with
          mem := s.initMap.mem
          address := 0x00
          newAddress := true
          offset := 0
          bpos := 0
          enabled := false
          tables := none
          centre := none
          centreDone := 0
          phase := .running } := by
  have e : s.initZero.initCalibration.initCopy.initId = { s with mem := s.initMap.mem } := initMap_frame s
  rw [execInit, e]
  rfl

end Sys2Proof.Machine
end

