-- ==== Sys2Proof/Laws/PerInstr.lean ====
section
/-! SUPPORT. The family `Addressed`: the transport reads the bytes that the encoder writes as a bus event, one lemma per
constructor (30_encoding.md R70, R75, R76). -/

namespace Sys2Proof.Laws

/-- The bytes of an operation that has an encoding are a transaction addressed to this block. -/
def Addressed.Statement (i : Instr) : Prop := ∀ bytes, encode i = some bytes → ∃ e, transport bytes = .ok e

theorem Addressed.wz : Addressed.Statement .wz := by
  intro bytes h
  cases h
  exact ⟨.write [], rfl⟩

theorem Addressed.sel (a : Byte) : Addressed.Statement (.sel a) := by
  intro bytes h
  cases h
  exact ⟨.write [a], rfl⟩

theorem Addressed.wr (a : Byte) (v : List Byte) : Addressed.Statement (.wr a v) := by
  intro bytes h
  cases h
  exact ⟨.write (a :: v), rfl⟩

theorem Addressed.rdReport : Addressed.Statement .rdReport := by
  intro bytes h
  cases h
  exact ⟨.read none, rfl⟩

theorem Addressed.rdId : Addressed.Statement .rdId := by
  intro bytes h
  cases h
  exact ⟨.read none, rfl⟩

theorem Addressed.rdGen : Addressed.Statement .rdGen := by
  intro bytes h
  cases h
  exact ⟨.read none, rfl⟩

theorem Addressed.rdGenU : Addressed.Statement .rdGenU := by
  intro bytes h
  cases h
  exact ⟨.read none, rfl⟩

theorem Addressed.keysetup : Addressed.Statement .keysetup := by
  intro bytes h
  cases h

theorem Addressed.fgStore (a v : Byte) : Addressed.Statement (.fgStore a v) := by
  intro bytes h
  cases h

theorem Addressed.fgCs (body : List FgAccess) : Addressed.Statement (.fgCs body) := by
  intro bytes h
  cases h

theorem Addressed.fgRefresh : Addressed.Statement .fgRefresh := by
  intro bytes h
  cases h

theorem Addressed.init : Addressed.Statement .init := by
  intro bytes h
  cases h

end Sys2Proof.Laws
end

