-- ==== Sys2Proof/Laws/Read.lean ====
section
/-! SUPPORT. The read windows: their lengths and their bytes. -/

namespace Sys2Proof.Machine

@[simp] theorem window_length (s : State) (m : Bool) (start n : Nat) : (s.window m start n).length = n := by
  simp [State.window]

@[simp] theorem window_getElem (s : State) (m : Bool) (start n j : Nat) (h : j < (s.window m start n).length) :
    (s.window m start n)[j] = s.sentValue m (BitVec.ofNat 8 (start + j)) := by
  simp [State.window]

/-- What a read sends for a register: the masked byte, or the raw one. -/
theorem sentValue_cases (s : State) (m : Bool) (a : Byte) :
    (m = true ∧ s.enabled = true) ∧ s.sentValue m a = enc s.activeTables (s.reg a) a ∨
      ¬ (m = true ∧ s.enabled = true) ∧ s.sentValue m a = s.reg a := by
  unfold State.sentValue
  rw [← Bool.and_eq_true]
  split <;> simp_all

theorem sentValue_raw (s : State) (m : Bool) (a : Byte) (h : s.enabled = false) : s.sentValue m a = s.reg a := by
  simp [State.sentValue, h]

theorem clampLength_le (most start : Nat) : clampLength most start ≤ most := Nat.min_le_left _ _

/-- A generic window ends at the register space's end. -/
theorem clampLength_fits (most start : Nat) (h : 0 < clampLength most start) : start + clampLength most start ≤ 256 := by
  unfold clampLength at *
  omega

/-- Everything a report read does. -/
theorem reportRead_eq (s : State) (len : ReportLen) (m h : Bool) :
    s.reportRead len m h =
      { s with
        response := s.window m s.bpos 8
        bpos := (s.bpos + 8) % len.bytes
        newAddress := false
        refreshPending := if h then s.refreshPending + 1 else s.refreshPending } := rfl

/-- Everything an identification read does. -/
theorem idRead_eq (s : State) : s.idRead = { s with response := s.window false 0xFA 6, newAddress := false } := rfl

/-- Everything a generic read does. -/
theorem genericRead_eq (s : State) (most o : Nat) :
    s.genericRead most o =
      { s with
        offset := o
        response := s.window true (s.address.toNat + o) (clampLength most (s.address.toNat + o))
        newAddress := false } := rfl

end Sys2Proof.Machine
end

