-- ==== Sys2Proof/Laws/Step.lean ====
section
/-! SUPPORT. What one step of the machine can do. -/

namespace Sys2Proof.Machine

/-- A bus step that answers has run the operation its event decodes to. -/
theorem busStep_next (e : BusEvent) (rest : List BusEvent) (s t : State) (h : busStep e rest s = .next t) :
    ∃ i u, decodeEvent Config.windowPolicy s.address e = .ok i ∧ exec i (s.setPending rest) = .next u ∧
      t = u.afterEvent e := by
  unfold busStep at h
  split at h
  · cases h
  · next i hi =>
    split at h
    · next u hu => exact ⟨i, u, hi, hu, by simpa using h.symm⟩
    · cases h
    · cases h

/-- A foreground step that answers has run its operation, and the events of the meantime are pending. -/
theorem foregroundStep_next (op : FgOp) (during : List BusEvent) (rest : List Input) (s t : State)
    (h : foregroundStep op during rest s = .next t) :
    ∃ u, op.wellFormed = true ∧ exec op.toInstr (s.setInputs rest) = .next u ∧ t = u.arrive during := by
  unfold foregroundStep at h
  split at h
  · next hw =>
    split at h
    · next u hu => exact ⟨u, hw, hu, by simpa using h.symm⟩
    · cases h
    · cases h
  · cases h

/-- One step of F for the centre report: it encodes the report, or makes a store. -/
theorem centreStep_next (task : CentreTask) (during : List BusEvent) (rest : List Input) (s t : State)
    (h : centreStep during rest s task = .next t) :
    (task = .encode ∧ t = (s.encodeCentre.setInputs rest).arrive during) ∨
      ∃ op u, task = .store op ∧ op.wellFormed = true ∧ exec op.toInstr (s.countCentre.setInputs rest) = .next u ∧
        t = u.arrive during := by
  cases task with
  | encode => exact .inl ⟨rfl, by simpa [centreStep] using h.symm⟩
  | store op =>
    obtain ⟨u, hw, hu, ht⟩ := foregroundStep_next _ _ _ _ _ h
    exact .inr ⟨op, u, rfl, hw, hu, ht⟩

/-- F's turn for a step for the centre report: the step that is due, or nothing but the arrivals. -/
theorem centreTurn_next (during : List BusEvent) (rest : List Input) (s t : State)
    (h : centreTurn during rest s = .next t) :
    (∃ task, s.centreDue = some task ∧ centreStep during rest s task = .next t) ∨
      (s.centreDue = none ∧ t = (s.setInputs rest).arrive during) := by
  unfold centreTurn at h
  split at h
  · next task hd => exact .inl ⟨task, hd, h⟩
  · next hd => exact .inr ⟨hd, by simpa using h.symm⟩

/-- F's turn for a step of its loop: the step for the centre report that is due, and the loop's step stays to come; or that step. -/
theorem foregroundTurn_next (op : FgOp) (during : List BusEvent) (rest : List Input) (s t : State)
    (h : foregroundTurn op during rest s = .next t) :
    (∃ task, s.centreDue = some task ∧ centreStep [] (.foreground op during :: rest) s task = .next t) ∨
      (s.centreDue = none ∧ ∃ u, op.wellFormed = true ∧ exec op.toInstr (s.setInputs rest) = .next u ∧
        t = u.arrive during) := by
  unfold foregroundTurn at h
  split at h
  · next task hd => exact .inl ⟨task, hd, h⟩
  · next hd => exact .inr ⟨hd, foregroundStep_next _ _ _ _ _ h⟩

/-- The seven things a step can do: initialisation, a bus step, a step of F for the centre report, a step of F's loop, a turn for
the centre report after it is stored, an arrival, and nothing. `centreStep_next` says what the third can do. -/
theorem step_next (s t : State) (h : step s = .next t) :
    (s.phase = .beforeInit ∧ exec .init s = .next t) ∨
      (s.phase = .running ∧ ∃ e rest i u, s.pending = e :: rest ∧
        decodeEvent Config.windowPolicy s.address e = .ok i ∧ exec i (s.setPending rest) = .next u ∧
        t = u.afterEvent e) ∨
      (s.phase = .running ∧ s.pending = [] ∧ ∃ task during rest, s.centreDue = some task ∧
        (s.inputs = .centre during :: rest ∨ during = [] ∧ s.inputs = rest ∧ ∃ op d r, rest = .foreground op d :: r) ∧
        centreStep during rest s task = .next t) ∨
      (s.phase = .running ∧ s.pending = [] ∧ s.centreDue = none ∧ ∃ op during rest u,
        s.inputs = .foreground op during :: rest ∧ op.wellFormed = true ∧
        exec op.toInstr (s.setInputs rest) = .next u ∧ t = u.arrive during) ∨
      (s.phase = .running ∧ s.pending = [] ∧ s.centreDue = none ∧ ∃ during rest, s.inputs = .centre during :: rest ∧
        t = (s.setInputs rest).arrive during) ∨
      (s.phase = .running ∧ s.pending = [] ∧ ∃ e rest, s.inputs = .arrive e :: rest ∧
        t = (s.setInputs rest).arrive [e]) ∨
      (s.phase = .running ∧ s.pending = [] ∧ s.inputs = [] ∧ t = s) := by
  unfold step machineStep at h
  split at h
  · next hp => exact .inl ⟨hp, h⟩
  · next hp =>
    refine .inr ?_
    unfold runningStep at h
    split at h
    · next hq =>
      refine .inr ?_
      unfold inputStep at h
      split at h
      · next hi => exact .inr (.inr (.inr (.inr ⟨hp, hq, hi, by simpa using h.symm⟩)))
      · next e rest hi => exact .inr (.inr (.inr (.inl ⟨hp, hq, e, rest, hi, by simpa using h.symm⟩)))
      · next during rest hi =>
        obtain ⟨task, hd, ht⟩ | ⟨hd, ht⟩ := centreTurn_next _ _ _ _ h
        · exact .inl ⟨hp, hq, task, during, rest, hd, .inl hi, ht⟩
        · exact .inr (.inr (.inl ⟨hp, hq, hd, during, rest, hi, ht⟩))
      · next op during rest hi =>
        obtain ⟨task, hd, ht⟩ | ⟨hd, u, hw, hu, ht⟩ := foregroundTurn_next _ _ _ _ _ h
        · exact .inl ⟨hp, hq, task, [], _, hd, .inr ⟨rfl, hi, op, during, rest, rfl⟩, ht⟩
        · exact .inr (.inl ⟨hp, hq, hd, op, during, rest, u, hi, hw, hu, ht⟩)
    · next e rest hq =>
      obtain ⟨i, u, hi, hu, ht⟩ := busStep_next _ _ _ _ h
      exact .inl ⟨hp, e, rest, i, u, hq, hi, hu, ht⟩

end Sys2Proof.Machine
end

