-- ==== Sys2Proof/Laws/Write.lean ====
section
/-! SUPPORT. A data write byte by byte: what the triggers mean for the bytes of a write, and what the bytes leave behind. -/

namespace Sys2Proof.Machine

@[simp] theorem target_zero (a : Byte) : target a 0 = a := by simp [target]

theorem target_succ (a : Byte) (i : Nat) : target a (i + 1) = target (a + 1) i := by
  unfold target
  bv_omega

/-- Two bytes of one write reach the same register only 256 bytes apart. -/
theorem target_ne (a : Byte) (i j : Nat) (hij : i < j) (hj : j < i + 256) : target a j ≠ target a i := by
  unfold target
  bv_omega

/-! ### The conditions of the first byte and of the rest -/

/-- Some byte among the first `n` satisfies a condition on its register and its raw value. -/
theorem within_cons (P : Byte → Byte → Prop) (a x : Byte) (v : List Byte) (n : Nat) :
    (∃ i, ∃ h : i < (x :: v).length, i < n + 1 ∧ P (target a i) (x :: v)[i]) ↔
      P a x ∨ ∃ i, ∃ h : i < v.length, i < n ∧ P (target (a + 1) i) v[i] := by
  constructor
  · rintro ⟨i, h, hn, hp⟩
    cases i with
    | zero => exact .inl (by simpa using hp)
    | succ i => exact .inr ⟨i, by simpa using h, by omega, by simpa [target_succ] using hp⟩
  · rintro (hp | ⟨i, h, hn, hp⟩)
    · exact ⟨0, by simp, by omega, by simpa using hp⟩
    · exact ⟨i + 1, by simpa using h, by omega, by simpa [target_succ] using hp⟩

theorem disableTrigger_iff (t v : Byte) : disableTrigger t v = true ↔ t = 0xF0 ∧ (v = 0x55 ∨ v = 0xAA) := by
  simp [disableTrigger]

theorem legacyTrigger_iff (t v : Byte) : legacyTrigger t v = true ↔ t = 0x40 ∧ v = 0x00 := by
  simp [legacyTrigger]

theorem completeTrigger_iff (t : Byte) : completeTrigger t = true ↔ t = 0x4F := by
  simp [completeTrigger]

theorem disablesWithin_cons (a x : Byte) (v : List Byte) (n : Nat) :
    DisablesWithin a (x :: v) (n + 1) ↔ disableTrigger a x = true ∨ DisablesWithin (a + 1) v n := by
  rw [disableTrigger_iff]
  exact within_cons (fun t v => t = 0xF0 ∧ (v = 0x55 ∨ v = 0xAA)) a x v n

theorem requestsLegacyWithin_cons (a x : Byte) (v : List Byte) (n : Nat) :
    RequestsLegacyWithin a (x :: v) (n + 1) ↔ legacyTrigger a x = true ∨ RequestsLegacyWithin (a + 1) v n := by
  rw [legacyTrigger_iff]
  exact within_cons (fun t v => t = 0x40 ∧ v = 0x00) a x v n

theorem not_disablesWithin_zero (a : Byte) (v : List Byte) : ¬ DisablesWithin a v 0 := by simp [DisablesWithin]

theorem not_requestsLegacyWithin_zero (a : Byte) (v : List Byte) : ¬ RequestsLegacyWithin a v 0 := by
  simp [RequestsLegacyWithin]

theorem not_disables_nil (a : Byte) : ¬ Disables a [] := by simp [Disables, DisablesWithin]

theorem not_requestsLegacy_nil (a : Byte) : ¬ RequestsLegacy a [] := by simp [RequestsLegacy, RequestsLegacyWithin]

theorem not_completesKey_nil (a : Byte) : ¬ CompletesKey a [] := by simp [CompletesKey]

theorem disables_cons (a x : Byte) (v : List Byte) :
    Disables a (x :: v) ↔ disableTrigger a x = true ∨ Disables (a + 1) v :=
  disablesWithin_cons a x v v.length

theorem requestsLegacy_cons (a x : Byte) (v : List Byte) :
    RequestsLegacy a (x :: v) ↔ legacyTrigger a x = true ∨ RequestsLegacy (a + 1) v :=
  requestsLegacyWithin_cons a x v v.length

theorem completesKey_cons (a x : Byte) (v : List Byte) :
    CompletesKey a (x :: v) ↔ completeTrigger a = true ∨ CompletesKey (a + 1) v := by
  rw [completeTrigger_iff]
  constructor
  · rintro ⟨i, h, e⟩
    cases i with
    | zero => exact .inl (by simpa using e)
    | succ i => exact .inr ⟨i, by simpa using h, by simpa [target_succ] using e⟩
  · rintro (e | ⟨i, h, e⟩)
    · exact ⟨0, by simp, by simpa using e⟩
    · exact ⟨i + 1, by simpa using h, by simpa [target_succ] using e⟩

/-! ### One byte -/

theorem checkByte_mem (s : State) (t v : Byte) : (s.checkByte t v).mem = s.mem := by
  unfold State.checkByte; split <;> rfl

theorem checkByte_reg (s : State) (t v b : Byte) : (s.checkByte t v).reg b = s.reg b := by
  unfold State.reg; rw [checkByte_mem]

/-- The checks of one byte clear the cipher, or leave the state alone. -/
theorem checkByte_cases (s : State) (t v : Byte) :
    (disableTrigger t v = true ∨ legacyTrigger t v = true) ∧ s.checkByte t v = s.invalidate ∨
      ¬ (disableTrigger t v = true ∨ legacyTrigger t v = true) ∧ s.checkByte t v = s := by
  unfold State.checkByte
  rw [← Bool.or_eq_true]
  split <;> simp_all

/-- One byte changes the register map and the cipher state and nothing else of the state. -/
theorem byte_frame (r : WriteRun) (t v : Byte) :
    (r.byte t v).st =
      { r.st with mem := (r.byte t v).st.mem, enabled := (r.byte t v).st.enabled, tables := (r.byte t v).st.tables } := by
  rcases checkByte_cases r.st t v with ⟨_, h⟩ | ⟨_, h⟩ <;> simp [WriteRun.byte, h, State.setReg, State.invalidate]

theorem byte_reg_other (r : WriteRun) (t v b : Byte) (h : b ≠ t) : (r.byte t v).st.reg b = r.st.reg b := by
  rw [WriteRun.byte, setReg_reg_other _ _ _ _ h, checkByte_reg]

/-! ### The bytes of a write -/

theorem bytes_frame (r : WriteRun) (a : Byte) (v : List Byte) :
    (r.bytes a v).st =
      { r.st with
        mem := (r.bytes a v).st.mem, enabled := (r.bytes a v).st.enabled, tables := (r.bytes a v).st.tables } := by
  induction v generalizing r a with
  | nil => rfl
  | cons x v ih =>
    rw [WriteRun.bytes, ih, byte_frame]

theorem bytes_wf (r : WriteRun) (a : Byte) (v : List Byte) (h : Memory.wf r.st.mem) : Memory.wf (r.bytes a v).st.mem := by
  induction v generalizing r a with
  | nil => exact h
  | cons x v ih =>
    rw [WriteRun.bytes]
    exact ih _ _ (setReg_wf _ _ _ (by rw [checkByte_mem]; exact h))

theorem bytes_legacyReq (r : WriteRun) (a : Byte) (v : List Byte) :
    (r.bytes a v).legacyReq = true ↔ r.legacyReq = true ∨ RequestsLegacy a v := by
  induction v generalizing r a with
  | nil => simp [WriteRun.bytes, not_requestsLegacy_nil]
  | cons x v ih => rw [WriteRun.bytes, ih, requestsLegacy_cons, WriteRun.byte, Bool.or_eq_true, or_assoc]

theorem bytes_keyComplete (r : WriteRun) (a : Byte) (v : List Byte) :
    (r.bytes a v).keyComplete = true ↔ r.keyComplete = true ∨ CompletesKey a v := by
  induction v generalizing r a with
  | nil => simp [WriteRun.bytes, not_completesKey_nil]
  | cons x v ih => rw [WriteRun.bytes, ih, completesKey_cons, WriteRun.byte, Bool.or_eq_true, or_assoc]

/-- A byte that clears the cipher leaves it cleared until the end of the write. -/
theorem bytes_cleared (r : WriteRun) (a : Byte) (v : List Byte) (h : Disables a v ∨ RequestsLegacy a v) :
    (r.bytes a v).st.enabled = false ∧ (r.bytes a v).st.tables = none := by
  have keeps : ∀ (v : List Byte) (r : WriteRun) (a : Byte), r.st.enabled = false ∧ r.st.tables = none →
      (r.bytes a v).st.enabled = false ∧ (r.bytes a v).st.tables = none := by
    intro v
    induction v with
    | nil => exact fun r a h => h
    | cons x v ih =>
      intro r a h
      refine ih _ _ ?_
      rcases checkByte_cases r.st a x with ⟨_, e⟩ | ⟨_, e⟩ <;> simp [WriteRun.byte, e, h]
  induction v generalizing r a with
  | nil => exact absurd h (by simp [not_disables_nil, not_requestsLegacy_nil])
  | cons x v ih =>
    rw [WriteRun.bytes]
    rw [disables_cons, requestsLegacy_cons] at h
    rcases checkByte_cases r.st a x with ⟨_, e⟩ | ⟨hn, e⟩
    · exact keeps _ _ _ (by simp [WriteRun.byte, e])
    · exact ih _ _ (by tauto)

/-- A write without a byte that clears the cipher leaves the cipher state to its end. -/
theorem bytes_not_cleared (r : WriteRun) (a : Byte) (v : List Byte) (hd : ¬ Disables a v) (hl : ¬ RequestsLegacy a v) :
    (r.bytes a v).st.enabled = r.st.enabled ∧ (r.bytes a v).st.tables = r.st.tables := by
  induction v generalizing r a with
  | nil => exact ⟨rfl, rfl⟩
  | cons x v ih =>
    rw [disables_cons] at hd
    rw [requestsLegacy_cons] at hl
    rw [WriteRun.bytes]
    have := ih (r.byte a x) (a + 1) (by tauto) (by tauto)
    rcases checkByte_cases r.st a x with ⟨ht, _⟩ | ⟨_, e⟩
    · tauto
    · simpa [WriteRun.byte, e] using this

/-- A register that no byte reaches keeps its value. -/
theorem bytes_reg_other (r : WriteRun) (a : Byte) (v : List Byte) (b : Byte) (h : ∀ i < v.length, target a i ≠ b) :
    (r.bytes a v).st.reg b = r.st.reg b := by
  induction v generalizing r a with
  | nil => rfl
  | cons x v ih =>
    rw [WriteRun.bytes, ih]
    · exact byte_reg_other r a x b fun e => h 0 (by simp) (by simp [e])
    · intro i hi
      rw [← target_succ]
      exact h (i + 1) (by simpa using hi)

/-- What a write stores for its byte `i`, if no later byte reaches the same register: the raw byte once the cipher has been
cleared at or before byte `i`, else what the state before the write stores for it. -/
theorem bytes_reg (r : WriteRun) (a : Byte) (v : List Byte) (i : Nat) (h : i < v.length) (hl : v.length ≤ i + 256) :
    (DisablesWithin a v (i + 1) ∨ RequestsLegacyWithin a v (i + 1) → (r.bytes a v).st.reg (target a i) = v[i]) ∧
      (¬ DisablesWithin a v (i + 1) ∧ ¬ RequestsLegacyWithin a v (i + 1) →
        (r.bytes a v).st.reg (target a i) = r.st.storedValue v[i] (target a i)) := by
  have raw : ∀ (v : List Byte) (r : WriteRun) (a : Byte) (i : Nat) (h : i < v.length), v.length ≤ i + 256 →
      r.st.enabled = false → (r.bytes a v).st.reg (target a i) = v[i] := by
    intro v
    induction v with
    | nil => intro r a i h; simp at h
    | cons x v ih =>
      intro r a i h hl he
      have hc : (r.st.checkByte a x).enabled = false := by
        rcases checkByte_cases r.st a x with ⟨_, e⟩ | ⟨_, e⟩ <;> simp [e, he]
      rw [WriteRun.bytes]
      cases i with
      | zero =>
        rw [bytes_reg_other]
        · simp [WriteRun.byte, State.storedValue, hc]
        · intro j hj e
          rw [← target_succ] at e
          exact target_ne a 0 (j + 1) (by omega) (by simp only [List.length_cons] at hl; omega) e
      | succ i =>
        rw [target_succ]
        exact ih _ _ i (by simpa using h) (by simp only [List.length_cons] at hl; omega) (by simp [WriteRun.byte, hc])
  induction v generalizing r a i with
  | nil => simp at h
  | cons x v ih =>
    rw [disablesWithin_cons, requestsLegacyWithin_cons, WriteRun.bytes]
    cases i with
    | zero =>
      have hreg : ((r.byte a x).bytes (a + 1) v).st.reg (target a 0) = (r.st.checkByte a x).storedValue x a := by
        rw [bytes_reg_other]
        · simp [WriteRun.byte]
        · intro j hj e
          rw [← target_succ] at e
          exact target_ne a 0 (j + 1) (by omega) (by simp only [List.length_cons] at hl; omega) e
      have hd := not_disablesWithin_zero (a + 1) v
      have hq := not_requestsLegacyWithin_zero (a + 1) v
      rw [hreg]
      rcases checkByte_cases r.st a x with ⟨ht, e⟩ | ⟨ht, e⟩
      · exact ⟨fun _ => by simp [e, State.storedValue], fun hn => by tauto⟩
      · exact ⟨fun hn => by tauto, fun _ => by simp [e]⟩
    | succ i =>
      rw [target_succ]
      have hi : i < v.length := by simpa using h
      have hl' : v.length ≤ i + 256 := by simp only [List.length_cons] at hl; omega
      rcases checkByte_cases r.st a x with ⟨ht, e⟩ | ⟨ht, e⟩
      · refine ⟨fun _ => raw v _ _ i hi hl' (by simp [WriteRun.byte, e]), fun hn => by tauto⟩
      · have := ih (r.byte a x) (a + 1) i hi hl'
        refine ⟨fun hc => this.1 (by tauto), fun hn => ?_⟩
        rw [List.getElem_cons_succ, this.2 (by tauto)]
        simp [WriteRun.byte, e, State.storedValue]

/-! ### The end of a write -/

/-- The legacy zeroing changes the key area and nothing else. -/
theorem zeroLegacy_frame (r : WriteRun) : r.zeroLegacy = { r.st with mem := r.zeroLegacy.mem } := by
  unfold WriteRun.zeroLegacy
  split
  · exact storeBytes_frame _ _ _
  · rfl

theorem zeroLegacy_wf (r : WriteRun) (h : Memory.wf r.st.mem) : Memory.wf r.zeroLegacy.mem := by
  unfold WriteRun.zeroLegacy
  split
  · exact storeBytes_wf _ _ _ h
  · exact h

theorem zeroLegacy_reg_key (r : WriteRun) (h : r.legacyReq = true) (b : Byte) (hb : InKeyArea b) :
    r.zeroLegacy.reg b = 0x00 := by
  have hlt : (b - 0x40).toNat < 16 := by
    obtain ⟨h1, h2⟩ := hb
    bv_omega
  rw [WriteRun.zeroLegacy, if_pos h, storeBytes_reg _ _ _ (by simp), List.getElem?_replicate, if_pos hlt]
  rfl

theorem zeroLegacy_reg_other (r : WriteRun) (b : Byte) (hb : ¬ (r.legacyReq = true ∧ InKeyArea b)) :
    r.zeroLegacy.reg b = r.st.reg b := by
  unfold WriteRun.zeroLegacy
  split
  · next h =>
    refine storeBytes_reg_other _ _ _ _ fun i hi e => hb ⟨h, ?_⟩
    simp only [List.length_replicate] at hi
    unfold InKeyArea
    rw [← e]
    constructor <;> bv_omega
  · rfl

/-- The two ends of a data write. -/
theorem finish_cases (r : WriteRun) :
    (r.legacyReq = true ∨ r.keyComplete = true) ∧ r.finish = r.zeroLegacy.keySetup ∨
      (r.legacyReq = false ∧ r.keyComplete = false) ∧ r.finish = r.st := by
  unfold WriteRun.finish
  cases hl : r.legacyReq <;> cases hk : r.keyComplete <;> simp [WriteRun.zeroLegacy, hl]

/-- Key setup keeps the register map. -/
@[simp] theorem keySetup_mem (s : State) : s.keySetup.mem = s.mem := rfl

@[simp] theorem keySetup_reg (s : State) (b : Byte) : s.keySetup.reg b = s.reg b := rfl

@[simp] theorem keySetup_enabled (s : State) : s.keySetup.enabled = true := rfl

@[simp] theorem keySetup_tables (s : State) : s.keySetup.tables = some (Config.keySchedule s.keyMaterial) := rfl

@[simp] theorem keySetup_keyMaterial (s : State) : s.keySetup.keyMaterial = s.keyMaterial := rfl

theorem finish_reg (r : WriteRun) (b : Byte) : r.finish.reg b = r.zeroLegacy.reg b := by
  rcases finish_cases r with ⟨_, h⟩ | ⟨⟨hl, _⟩, h⟩
  · rw [h, keySetup_reg]
  · rw [h, WriteRun.zeroLegacy, if_neg (by simp [hl])]

end Sys2Proof.Machine
end

