-- ==== Sys2Proof/Tests/Slice0.lean ====
section
/-! SUPPORT. Tests from spec/95_test_vectors.md and the encodings of 30_encoding.md, the smoke test of WellFormed, and a witness
for the hypotheses of every statement that has some. -/

namespace Sys2Proof.Tests

open Sys2Proof.Machine

/-- One field or more of the state after an operation. -/
def after {α : Type} (i : Instr) (s : State) (f : State → α) : Option α :=
  match exec i s with
  | .next t => some (f t)
  | .fault _ => none
  | .refused _ => none

/-- One field or more of the state after a step. -/
def afterStep {α : Type} (s : State) (f : State → α) : Option α :=
  match step s with
  | .next t => some (f t)
  | .fault _ => none
  | .refused _ => none

/-- `TT` of 95_test_vectors.md section 0. -/
def tablesTT : Tables where
  additive := #v[0x11, 0x22, 0x33, 0x44, 0x55, 0x66, 0x77, 0x88]
  mask := #v[0x0F, 0xF0, 0x3C, 0xC3, 0x5A, 0xA5, 0x00, 0xFF]

/-- The reset state with some cells. -/
def withCells (m : Memory) : State := { State.reset with mem := m }

/-- The reset state with some cells and the tables `TT` enabled. -/
def enabledTT (m : Memory) : State := { withCells m with enabled := true, tables := some tablesTT }

/-! ### WellFormed refuses -/

theorem test_wf_wr_empty : (Instr.wr 0x20 []).wellFormed = false := by decide

theorem test_wf_wr_too_long : (Instr.wr 0x20 (List.replicate Config.maxWriteLen 0)).wellFormed = false := by
  simp [Instr.wellFormed]

theorem test_wf_fgStore_outside : (Instr.fgStore 0x08 0).wellFormed = false := by decide

theorem test_wf_fgCs_outside : (Instr.fgCs [.read 0xFF, .store 0x07 1, .store 0x08 1]).wellFormed = false := by decide

theorem test_wf_fgOp_outside : (FgOp.store 0x20 0).wellFormed = false ∧ (FgOp.cs [.store 0xF0 0]).wellFormed = false := by
  decide

theorem test_wf_event_too_long : (BusEvent.write (List.replicate (Config.maxWriteLen + 1) 0)).wellFormed = false := by
  simp [BusEvent.wellFormed]

theorem test_wf_input_outside : (Input.foreground (.store 0x08 0) []).wellFormed = false := by decide

/-! ### Decoding and encoding, the words written out from 30_encoding.md R70, R71, R75 -/

/-- 1010010 0: slave 0x52, write, no data byte. -/
theorem test_decode_wz : decodeTableWord 8 0b10100100 = some .wz := by decide

/-- 1010010 0, then a = 0010 0000. -/
theorem test_decode_sel : decodeTableWord 16 0b00100000_10100100 = some (.sel 0x20) := by decide

/-- 1010010 0, then a = 1111 0000, then the raw byte 0101 0101 (`CIPHER_OFF` of R80). -/
theorem test_decode_wr : decodeTableWord 24 0b01010101_11110000_10100100 = some (.wr 0xF0 [0x55]) := by decide

/-- 1010010 1: slave 0x52, read, with the cursor at 0x00. -/
theorem test_decode_rdReport : decodeTableWord 8 0b10100101 = some .rdReport := by decide

theorem test_decode_rdId : decode .paged8 0xFA [0b10100101] = .ok .rdId := by decide

theorem test_decode_rdGen : decode .paged8 0x20 [0b10100101] = .ok .rdGen := by decide

theorem test_decode_rdGenU : decode .unpaged21 0x20 [0b10100101] = .ok .rdGenU := by decide

theorem test_decode_refuses : decode .paged8 0x20 [] = .error .noAddressByte ∧
    decode .paged8 0x20 [0b10100110, 0x20] = .error (.otherSlave 0x53) ∧
    decode .paged8 0x20 [0b10100101, 0x20] = .error .readCarriesData := by decide

theorem test_decode_too_long :
    decodeEvent .paged8 0x20 (.write (0 :: 0 :: List.replicate Config.maxWriteLen 0)) = .error .writeTooLong := by
  simp [decodeEvent]

theorem test_encode_words : encode (.sel 0x20) = some [0b10100100, 0b00100000] ∧
    encode (.wr 0xF0 [0x55]) = some [0b10100100, 0b11110000, 0b01010101] ∧ encode .rdId = some [0b10100101] ∧
    encode .keysetup = none ∧ encode .init = none := by decide

/-- The words run as the first step after reset. -/
theorem test_fetch_sel : afterStep (State.reset.withFetchWord 16 0x35A4) (fun t => (t.address, t.newAddress, t.pending)) =
    some (0x35, true, []) := by decide

/-! ### The register map -/

theorem test_memory_canonical : Memory.wf [(0x00, 1), (0x41, 2)] ∧ ¬ Memory.wf [(0x41, 2), (0x00, 1)] ∧
    ¬ Memory.wf [(0x41, 0)] ∧ ¬ Memory.wf [(256, 1)] := by decide

/-- Writing the reset contents takes the cell out. -/
theorem test_memory_write : (withCells [(0x41, 2)]).setReg 0x41 0 = withCells [] ∧
    (withCells [(0x41, 2)]).setReg 0x40 3 = withCells [(0x40, 3), (0x41, 2)] ∧
    (withCells []).setReg 0xFC 0xA4 = withCells [] := by decide

/-! ### The cipher's transforms: 95_test_vectors.md L2-CI, L1-3 -/

theorem test_enc : [enc tablesTT 0x00 0x00, enc tablesTT 0xFF 0x07, enc tablesTT 0x55 0xF0, enc tablesTT 0x80 0x2D,
    enc tablesTT 0x00 0x45, enc tablesTT 0x50 0x23] = [0xE0, 0x88, 0x4B, 0xBF, 0x3F, 0xCF] := by decide

theorem test_dec : [dec tablesTT 0x00 0x00, dec tablesTT 0xFF 0x07, dec tablesTT 0x55 0xF0, dec tablesTT 0x80 0x2D,
    dec tablesTT 0x00 0x45, dec tablesTT 0xCF 0x23] = [0x20, 0x88, 0x6B, 0x8B, 0x0B, 0x50] := by decide

/-- The formula of 42_cipher.md R165 worked by hand. -/
theorem test_ror8 : ror8 0x81 0 = 0x81 ∧ ror8 0x01 1 = 0x80 ∧ ror8 0xC5 4 = 0x5C ∧ ror8 0x80 7 = 0x01 := by decide

/-! ### The bus operations -/

/-- L2-WZ-1. -/
theorem test_wz : after .wz ((withCells []).select 0x20) (fun t => (t.address, t.newAddress, t.offset)) =
    some (0x20, true, 0) := by decide

/-- L2-SE-1, from a cursor that has moved. -/
theorem test_sel : after (.sel 0x35) { State.reset with newAddress := false, offset := 16, bpos := 8 }
    (fun t => (t.address, t.newAddress, t.offset, t.bpos)) = some (0x35, true, 0, 0) := by decide

/-- L2-SE-4: no side-effect check. -/
theorem test_sel_keeps_cipher : after (.sel 0xF0) (enabledTT []) (fun t => (t.enabled, t.tables)) =
    some (true, some tablesTT) := by decide

/-- L2-WR-3, L2-WR-5, L2-WR-6: the wrap through the cipher, the disabling byte stored raw, and the byte that only unmasks to it. -/
theorem test_wr_cipher :
    after (.wr 0xFF [0x12, 0x34]) (enabledTT []) (fun t => (t.reg 0xFF, t.reg 0x00)) = some (0x75, 0x4C) ∧
    after (.wr 0xF0 [0x55]) (enabledTT []) (fun t => (t.reg 0xF0, t.enabled, t.tables)) = some (0x55, false, none) ∧
    after (.wr 0xF0 [0x4B]) (enabledTT []) (fun t => (t.reg 0xF0, t.enabled)) = some (0x55, true) := by decide

/-- L2-WR-11, L2-WR-8: the legacy request zeroes the key area and leaves the bytes past it raw; a partial key does nothing. -/
theorem test_wr_key :
    after (.wr 0x40 (0x00 :: List.replicate 20 0x11)) (enabledTT []) (fun t => (t.readBytes 0x4E 4, t.reg 0x54, t.enabled)) =
      some ([0x00, 0x00, 0x11, 0x11], 0x11, true) ∧
    after (.wr 0x40 [1, 2, 3, 4, 5, 6]) (withCells []) (fun t => (t.readBytes 0x40 7, t.enabled, t.tables)) =
      some ([1, 2, 3, 4, 5, 6, 0], false, none) := by decide

/-- L2-RR-3. -/
theorem test_rdReport_masked : after .rdReport (enabledTT []) (fun t => (t.response, t.newAddress, t.bpos)) =
    some ([0xE0, 0x2E, 0xF1, 0x7F, 0xF1, 0x3F, 0x89, 0x87], false, 0) := by decide

/-- L2-RR-4, L2-RR-6: the second window of a 16-byte report area, and the unmasked report. -/
theorem test_reportRead_parameters :
    (((withCells [(0x00, 0x10), (0x08, 0x11)]).reportRead .sixteen true false).reportRead .sixteen true false).response =
      [0x11, 0, 0, 0, 0, 0, 0, 0] ∧
    ((withCells []).reportRead .sixteen true true).bpos = 8 ∧
    ((enabledTT []).reportRead .eight false true).response = [0, 0, 0, 0, 0, 0, 0, 0] ∧
    ((enabledTT []).reportRead .eight false true).refreshPending = 1 := by decide

/-- L2-ID-2. -/
theorem test_rdId : after .rdId ((enabledTT []).select 0xFA) (fun t => (t.response, t.newAddress)) =
    some ([0x00, 0x00, 0xA4, 0x20, 0x01, 0x01], false) := by decide

/-- L2-WR-16: a host write to the identification bytes, read back unmasked. -/
theorem test_rdId_written : (match execAll [.wr 0xFA [0x99], .sel 0xFA, .rdId] (enabledTT []) with
    | .next t => t.response
    | _ => []) = [0xD8, 0x00, 0xA4, 0x20, 0x01, 0x01] := by decide

/-- L2-RG-7. -/
theorem test_rdGen_masked : after .rdGen
    ((enabledTT [(0x23, 0xE0), (0x24, 0x20), (0x25, 0x80), (0x26, 0xE0), (0x27, 0x20), (0x28, 0x80), (0x29, 0xE0),
      (0x2A, 0x20)]).select 0x23) (fun t => t.response) =
    some [0x5F, 0x91, 0xBF, 0x69, 0x67, 0x60, 0x4E, 0xD1] := by decide

/-- L2-RG-2, L2-RG-5, L2-RG-6: the clamp, the last window and the saturated offset. -/
theorem test_rdGen_clamp :
    after .rdGen ((withCells []).select 0xFD) (fun t => t.response) = some [0x20, 0x01, 0x01] ∧
    after .rdGen { withCells [] with address := 0x01, newAddress := false, offset := 240 } (fun t => (t.response, t.offset)) =
      some ([0x00, 0x00, 0x00, 0xA4, 0x20, 0x01, 0x01], 248) ∧
    after .rdGen { withCells [] with address := 0x01, newAddress := false, offset := 256 } (fun t => (t.response, t.offset)) =
      some ([], 256) := by decide

/-- L2-RU-2, L2-RU-3. -/
theorem test_rdGenU :
    after .rdGenU ((withCells []).select 0xF0) (fun t => (t.response, t.offset)) =
      some ([0, 0, 0, 0, 0, 0, 0, 0, 0, 0, 0x00, 0x00, 0xA4, 0x20, 0x01, 0x01], 0) ∧
    after .rdGenU ((withCells []).select 0xFF) (fun t => t.response) = some [0x01] := by decide

/-- A window of 21 bytes. -/
theorem test_rdGenU_length : after .rdGenU ((withCells []).select 0x50) (fun t => t.response.length) = some 21 := by decide

/-- L2-CI-9: the tables are those of the 16 zero bytes, whatever the schedule. -/
theorem test_keysetup : after .keysetup (withCells []) (fun t => (t.enabled, t.tables)) =
    some (true, some (Config.keySchedule (Vector.ofFn fun _ => 0x00))) := rfl

/-! ### The foreground -/

/-- L2-FG-5. -/
theorem test_fgStore : (match execAll [.fgStore 0x00 0x22, .rdReport] (enabledTT []) with
    | .next t => t.response.take 1
    | _ => []) = [0x1E] := by decide

theorem test_fgCs : after (.fgCs [.store 0x04 0xFE, .read 0x04, .store 0x05 0xFF, .store 0x04 0x01]) (withCells [])
    (fun t => (t.readBytes 0x03 4, t.enabled)) = some ([0x00, 0x01, 0xFF, 0x00], false) := by decide

theorem test_consumeRefresh :
    ({ State.reset with refreshPending := 2 }.consumeRefresh true).refreshPending = 1 ∧
    (State.reset.consumeRefresh true).refreshPending = 0 := by decide

theorem test_init : after .init { enabledTT [] with phase := .beforeInit, address := 0x20, newAddress := false, offset := 8 }
    (fun t => ((t.address, t.newAddress, t.offset), (t.enabled, t.tables, t.phase))) =
    some ((0x00, true, 0), (false, none, .running)) := by decide

/-! ### The step -/

/-- An event that arrives in a critical section waits for its end; the next step takes it (43_foreground.md R182). -/
theorem test_step_critical_section :
    (match foregroundStep (.cs [.store 0x00 0x22, .store 0x07 0x22]) [.read none] [] State.reset with
      | .next t => some (t.reg 0x07, t.pending, t.inputs)
      | _ => none) = some (0x22, [.read none], []) ∧
    afterStep { withCells [(0x00, 0x22)] with pending := [.read (some 3)], inputs := [.foreground (.store 0x00 0) []] }
      (fun t => (t.received, t.pending, t.inputs)) =
      some ([[0x22, 0x00, 0x00]], [], [.foreground (.store 0x00 0) []]) := by decide

/-- F's first step encodes the centre report, whatever its loop would do (43_foreground.md R181(b), R185); a read before it sees
zeros (L2-IN-2). -/
theorem test_step_centre_first :
    afterStep { State.reset with inputs := [.foreground (.store 0x00 1) []] } (fun t => (t.reg 0x00, t.inputs, t.centre.isSome)) =
      some (0x00, [.foreground (.store 0x00 1) []], true) ∧
    afterStep { State.reset with pending := [.read none], inputs := [.centre []] } (fun t => (t.received, t.inputs)) =
      some ([[0, 0, 0, 0, 0, 0, 0, 0]], [.centre []]) := by decide

/-- The layout is the one that the mode register selects when F reads it (43_foreground.md R181(b)), a host write before it
included. -/
theorem test_step_centre_layout (v : Byte) :
    afterStep { State.reset.setReg Config.modeRegAddr v with inputs := [.centre []] } (fun t => t.centre.map CentreReport.layout) =
      some (some (Config.encoderLayout v)) := by
  show some (some (Config.encoderLayout ((State.reset.setReg Config.modeRegAddr v).reg Config.modeRegAddr))) = _
  rw [setReg_reg_same]

/-- L2-ID-3: eight clocks after a six-byte response draw two PAD bytes, whatever they are. -/
theorem test_step_pad : afterStep { (withCells []).select 0xFA with pending := [.read (some 8)], padDraws := 5 }
    (fun t => (t.received, t.padDraws)) =
    some ([[0x00, 0x00, 0xA4, 0x20, 0x01, 0x01, Config.pad 5, Config.pad 6]], 7) := rfl

/-! ### Witnesses for the statements' hypotheses -/

theorem witness_quiet_write : ¬ Disables 0x50 [0x01] ∧ ¬ RequestsLegacy 0x50 [0x01] ∧ ¬ CompletesKey 0x50 [0x01] := by
  rw [disables_cons, requestsLegacy_cons, completesKey_cons]
  refine ⟨?_, ?_, ?_⟩ <;>
    simp [not_disables_nil, not_requestsLegacy_nil, not_completesKey_nil, disableTrigger, legacyTrigger, completeTrigger]

theorem witness_disabling_write :
    Disables 0xF0 [0xAA] ∧ ¬ RequestsLegacy 0xF0 [0xAA] ∧ ¬ CompletesKey 0xF0 [0xAA] := by
  rw [disables_cons, requestsLegacy_cons, completesKey_cons]
  refine ⟨?_, ?_, ?_⟩ <;> simp [not_requestsLegacy_nil, not_completesKey_nil, disableTrigger, legacyTrigger, completeTrigger]

/-- `DataWriteFrame`: a register next to the write, and the registers on both sides of the key area after a legacy request. -/
theorem witness_DataWriteFrame :
    (∀ i < [(0x01 : Byte)].length, target 0x50 i ≠ 0x51) ∧ ¬ (RequestsLegacy 0x50 [0x01] ∧ InKeyArea 0x51) ∧
      RequestsLegacy 0x40 [0x00] ∧ ¬ InKeyArea 0x3F ∧ ¬ InKeyArea 0x50 := by
  refine ⟨by decide, fun h => witness_quiet_write.2.1 h.1, ⟨0, by decide, by decide, by decide, rfl⟩, ?_, ?_⟩ <;>
    unfold InKeyArea <;> decide

/-- `DataWriteStoresEachByte`, the first clause: an enabled cipher and a byte no trigger stands before. -/
theorem witness_DataWriteStoresEachByte_masked :
    (enabledTT []).enabled = true ∧ 0 < [(0x01 : Byte)].length ∧ [(0x01 : Byte)].length ≤ 0 + 256 ∧
      ¬ (RequestsLegacy 0x50 [0x01] ∧ InKeyArea (target 0x50 0)) ∧
      ¬ DisablesWithin 0x50 [0x01] (0 + 1) ∧ ¬ RequestsLegacyWithin 0x50 [0x01] (0 + 1) :=
  ⟨rfl, by decide, by decide, fun h => witness_quiet_write.2.1 h.1, witness_quiet_write.1, witness_quiet_write.2.1⟩

/-- `DataWriteStoresEachByte`, the second clause: a disabled cipher; the disabling byte itself; a byte of a legacy write past the
key area, which its first byte, at 0x40, has cleared. -/
theorem witness_DataWriteStoresEachByte_raw :
    (withCells []).enabled = false ∧ DisablesWithin 0xF0 [0xAA] (0 + 1) ∧
      RequestsLegacyWithin 0x40 (0x00 :: List.replicate 16 0x11) (16 + 1) ∧ ¬ InKeyArea (target 0x40 16) := by
  refine ⟨rfl, witness_disabling_write.1, ⟨0, by decide, by decide, by decide, rfl⟩, ?_⟩
  unfold InKeyArea
  decide

/-- `DataWriteStoresEachByte` on a write longer than the map: byte 1 of 257 is the last that reaches its register. -/
theorem witness_DataWriteStoresEachByte_long :
    1 < (List.replicate 257 (0x01 : Byte)).length ∧ (List.replicate 257 (0x01 : Byte)).length ≤ 1 + 256 ∧
      ¬ (RequestsLegacy 0x50 (List.replicate 257 0x01) ∧ InKeyArea (target 0x50 1)) := by
  refine ⟨by rw [List.length_replicate]; decide, by rw [List.length_replicate], ?_⟩
  rintro ⟨_, h⟩
  revert h
  unfold InKeyArea
  decide

/-- `DataWriteEndsWithKeySetup`: a legacy request, a completion at the last byte of a full key, a disabling write, a quiet one. -/
theorem witness_DataWriteEndsWithKeySetup :
    RequestsLegacy 0x40 [0x00] ∧ CompletesKey 0x40 (List.replicate 16 0x01) ∧
      (¬ RequestsLegacy 0xF0 [0xAA] ∧ ¬ CompletesKey 0xF0 [0xAA] ∧ Disables 0xF0 [0xAA]) ∧
      ¬ RequestsLegacy 0x50 [0x01] ∧ ¬ CompletesKey 0x50 [0x01] ∧ ¬ Disables 0x50 [0x01] :=
  ⟨⟨0, by decide, by decide, by decide, rfl⟩, ⟨15, by decide, by decide⟩,
    ⟨witness_disabling_write.2.1, witness_disabling_write.2.2, witness_disabling_write.1⟩,
    witness_quiet_write.2.1, witness_quiet_write.2.2, witness_quiet_write.1⟩

/-- `DisablingWriteMakesReadsRaw`, from an enabled cipher. -/
theorem witness_DisablingWriteMakesReadsRaw : (enabledTT []).enabled = true ∧
    Disables 0xF0 [0xAA] ∧ ¬ RequestsLegacy 0xF0 [0xAA] ∧ ¬ CompletesKey 0xF0 [0xAA] :=
  ⟨rfl, witness_disabling_write⟩

theorem witness_KeyInOneWriteOrThree :
    State.reset.enabled = false ∧ (#v[1, 2, 3, 4, 5, 6, 7, 8, 9, 10, 11, 12, 13, 14, 15, 16] : Vector Byte 16)[0] ≠ 0x00 := by
  decide

theorem witness_WrittenBytesAreReadBack :
    (0x50 : Byte) ≠ 0xFA ∧ (¬ Disables 0x50 [0x01] ∧ ¬ RequestsLegacy 0x50 [0x01] ∧ ¬ CompletesKey 0x50 [0x01]) ∧
      [(0x01 : Byte)].length ≤ 8 ∧ (0x50 : Byte).toNat + [(0x01 : Byte)].length ≤ 256 :=
  ⟨by decide, witness_quiet_write, by decide, by decide⟩

/-- `GenericReadReturnsItsPage`, `UnpagedReadReturnsTheRest`: the addresses next to the two special ones. -/
theorem witness_generic_addresses : ((0x01 : Byte) ≠ 0x00 ∧ (0x01 : Byte) ≠ 0xFA) ∧ (0xFB : Byte) ≠ 0x00 ∧ (0xFB : Byte) ≠ 0xFA := by
  decide

/-- `OnlyDisablingWritesClearTheCipher`. -/
theorem witness_OnlyDisablingWritesClearTheCipher : ∃ t, exec (.wr 0xF0 [0xAA]) (enabledTT []) = .next t ∧
    (enabledTT []).enabled = true ∧ t.enabled = false :=
  ⟨_, rfl, rfl, rfl⟩

/-- `OnlyKeySetupEnablesTheCipher`. -/
theorem witness_OnlyKeySetupEnablesTheCipher : ∃ t, exec (.wr 0x4F [0x01]) State.reset = .next t ∧
    State.reset.enabled = false ∧ t.enabled = true :=
  ⟨_, rfl, rfl, rfl⟩

/-- `DisabledCipherIgnoresItsTables`. -/
theorem witness_disabled : State.reset.enabled = false := rfl

/-- `CriticalSectionRunsItsBody`: a register no store names, and a store that is not the register's first. -/
theorem witness_CriticalSectionRunsItsBody :
    (∀ v, FgAccess.store 0x01 v ∉ [FgAccess.store 0x00 1, FgAccess.store 0x00 2]) ∧
      [FgAccess.store 0x00 1, FgAccess.store 0x00 2] = [FgAccess.store 0x00 1] ++ FgAccess.store 0x00 2 :: [] ∧
      ∀ w, FgAccess.store 0x00 w ∉ ([] : List FgAccess) := by
  simp

/-- `ForegroundKeepsToTheReportArea`: the last register of the report area, and the first outside it. -/
theorem witness_ForegroundKeepsToTheReportArea :
    (FgOp.store 0x07 1).wellFormed = true ∧ (FgOp.cs [.store 0x07 1]).wellFormed = true ∧
      FgOp.refresh.wellFormed = true ∧ ¬ (0x08 : Byte).toNat < Config.reportLen.bytes := by
  decide

/-- `TornReportIsRead`, with all eight bytes stored. -/
theorem witness_TornReportIsRead :
    State.reset.enabled = false ∧ State.reset.bpos = 0 ∧ (List.replicate 8 (0x22 : Byte)).length ≤ 8 := by
  decide

/-- `FirstReportReadInBothOrders`. -/
theorem witness_FirstReportReadInBothOrders : (List.replicate 8 (0x22 : Byte)).length = 8 := by decide

/-- `InitialisationLeavesTheResetState`: a canonical map that is not the reset map. -/
theorem witness_InitialisationLeavesTheResetState : Memory.wf (withCells [(0x00, 0x22), (0x41, 1)]).mem := by decide

/-- `InitialisationEstablishesItsValues`, `ResetRegisterMap`: the ends of the three ranges of zero. -/
theorem witness_zero_ranges : ((0x1F : Byte).toNat < 0x20 ∨ 0x40 ≤ (0x1F : Byte).toNat ∧ (0x1F : Byte).toNat < 0xFA) ∧
    ((0x40 : Byte).toNat < 0x20 ∨ 0x40 ≤ (0x40 : Byte).toNat ∧ (0x40 : Byte).toNat < 0xFA) ∧
    ((0xF9 : Byte).toNat < 0x20 ∨ 0x40 ≤ (0xF9 : Byte).toNat ∧ (0xF9 : Byte).toNat < 0xFA) := by
  decide

/-- The reset state with one pending write. -/
def pendingSel : State := { State.reset with pending := [.write [0x20]] }

/-- `StepKeepsTheInvariant`: a state that meets the invariant and steps to another. -/
theorem witness_StepKeepsTheInvariant : pendingSel.Inv ∧ ∃ t, step pendingSel = .next t :=
  ⟨⟨wf_nil, Nat.zero_le _, rfl, by decide, by decide, fun _ => rfl, by decide, fun _ => rfl, fun _ _ => Nat.zero_le _, fun _ => rfl⟩, _, rfl⟩

/-- `StepKeepsInputsPossible`, `StepNeverStops`. -/
theorem witness_StepKeepsInputsPossible : pendingSel.InputsOk ∧ ∃ t, step pendingSel = .next t :=
  ⟨⟨by decide, by decide⟩, _, rfl⟩

/-- `StepRunsThePendingEvent`, `EventsAreTakenInWireOrder`. -/
theorem witness_StepRunsThePendingEvent : pendingSel.phase = .running ∧ pendingSel.pending = .write [0x20] :: [] ∧
    decodeEvent Config.windowPolicy pendingSel.address (.write [0x20]) = .ok (.sel 0x20) ∧
    ∃ t, step pendingSel = .next t :=
  ⟨rfl, rfl, rfl, _, rfl⟩

/-- `MasterReceivesTheResponse`, `ClockCountChangesNoEngineState`: a pending read. -/
theorem witness_MasterReceivesTheResponse :
    { State.reset with pending := [.read (some 9)] }.phase = .running ∧
      { State.reset with pending := [.read (some 9)] }.pending = .read (some 9) :: [] :=
  ⟨rfl, rfl⟩

/-- A centre report in the layout of eight bytes. -/
def sampleReport : CentreReport := ⟨.extended, Vector.replicate 8 0x80⟩

/-- The reset state with a centre report stored and one foreground step to come. -/
def foregroundToCome : State :=
  { State.reset with
    centre := some sampleReport, centreDone := 8, inputs := [.foreground (.store 0x07 1) [.read none]] }

theorem foregroundToCome_centreDue : foregroundToCome.centreDue = none :=
  (centreDue_none _).2 ⟨_, rfl, by rw [centreStores_length]; decide⟩

/-- `StepRunsTheForeground`. -/
theorem witness_StepRunsTheForeground : foregroundToCome.phase = .running ∧ foregroundToCome.pending = [] ∧
    foregroundToCome.centreDue = none ∧
    foregroundToCome.inputs = .foreground (.store 0x07 1) [.read none] :: [] ∧ (FgOp.store 0x07 1).wellFormed = true :=
  ⟨rfl, rfl, foregroundToCome_centreDue, rfl, by decide⟩

/-- `StepInitialisesArrivesOrIdles`, clause by clause. -/
theorem witness_StepInitialisesArrivesOrIdles :
    { State.reset with phase := .beforeInit }.phase = .beforeInit ∧
      ({ State.reset with inputs := [.arrive (.write [])] }.phase = .running ∧
        { State.reset with inputs := [.arrive (.write [])] }.pending = [] ∧
        { State.reset with inputs := [.arrive (.write [])] }.inputs = .arrive (.write []) :: []) ∧
      ({ foregroundToCome with inputs := [.centre []] }.centreDue = none ∧
        { foregroundToCome with inputs := [.centre []] }.inputs = .centre [] :: []) ∧
      State.reset.phase = .running ∧ State.reset.pending = [] ∧ State.reset.inputs = [] :=
  ⟨rfl, ⟨rfl, rfl, rfl⟩, ⟨foregroundToCome_centreDue, rfl⟩, rfl, rfl, rfl⟩

/-- `EncoderReadsTheModeRegister`, with both kinds of turn. -/
theorem witness_EncoderReadsTheModeRegister :
    (State.reset.phase = .running ∧ State.reset.pending = [] ∧ State.reset.centre = none) ∧
      { State.reset with inputs := [.centre [.read none]] }.inputs = .centre [.read none] :: [] ∧
      { State.reset with inputs := [.foreground .refresh []] }.inputs = .foreground .refresh [] :: [] :=
  ⟨⟨rfl, rfl, rfl⟩, rfl, rfl⟩

/-- `ForegroundFirstStoresTheCentreReport`: the last store of the report, with both kinds of turn. -/
theorem witness_ForegroundFirstStoresTheCentreReport :
    { foregroundToCome with centreDone := 7 }.centreDone < (centreStores sampleReport).length ∧
      ({ foregroundToCome with centreDone := 7 }.phase = .running ∧ { foregroundToCome with centreDone := 7 }.pending = [] ∧
        { foregroundToCome with centreDone := 7 }.centre = some sampleReport) ∧
      { foregroundToCome with centreDone := 7, inputs := [.centre [.read none]] }.inputs = .centre [.read none] :: [] ∧
      { foregroundToCome with centreDone := 7 }.inputs = .foreground (.store 0x07 1) [.read none] :: [] :=
  ⟨by rw [centreStores_length]; decide, ⟨rfl, rfl, rfl⟩, rfl, rfl⟩

/-- `CentreReportIsReadAfterItsStores`: the reset state with the turns to come, and the ends of its two ranges of registers. -/
theorem witness_CentreReportIsReadAfterItsStores :
    (State.reset.phase = .running ∧ State.reset.pending = [] ∧ State.reset.centre = none ∧ State.reset.centreDone = 0 ∧
        State.reset.enabled = false ∧ State.reset.bpos = 0) ∧
      { State.reset with
          inputs := List.replicate (State.reset.encodedCentre.layout.bytes + 1) (Input.centre []) ++ [] }.encodedCentre =
        State.reset.encodedCentre ∧
      (0 : Fin 8).val < State.reset.encodedCentre.layout.bytes ∧
      State.reset.encodedCentre.layout.bytes ≤ (0x08 : Byte).toNat :=
  ⟨⟨rfl, rfl, rfl, rfl, rfl, rfl⟩, rfl, layout_bytes _⟩

/-- `StagedWordRunsNext`. -/
theorem witness_StagedWordRunsNext : decodeTableWord 16 0x20A4 = some (.sel 0x20) := by decide

/-- `EventMapIsTotal`: the shortest data write fits every `MAX_WRITE_LEN`. -/
theorem witness_EventMapIsTotal : [(0x20 : Byte), 0x01].length ≤ Config.maxWriteLen := by decide

/-- `DecodeUndoesEncode`, `EncodeUndoesDecode`. -/
theorem witness_DecodeUndoesEncode : (Instr.wr 0x20 [0x01]).wellFormed = true ∧
    (Instr.wr 0x20 [0x01]).selectedBy .paged8 0x00 = true ∧ encode (.wr 0x20 [0x01]) = some [0xA4, 0x20, 0x01] ∧
    decode .paged8 0x00 [0xA4, 0x20, 0x01] = .ok (.wr 0x20 [0x01]) := by
  decide

end Sys2Proof.Tests
end

section
/-! Family 00_scope.md: every operation answers. The layer first, what `exec` answers for each operation; then O36. -/

namespace Sys2Proof.Proofs

open Sys2Proof.Machine

/-! ### What each operation answers -/

@[simp] theorem exec_wz (s : State) : exec .wz s = .next s := rfl

@[simp] theorem exec_sel (a : Byte) (s : State) : exec (.sel a) s = .next (s.select a) := rfl

@[simp] theorem exec_wr (a : Byte) (v : List Byte) (s : State) :
    exec (.wr a v) s = .next ((WriteRun.start s).bytes a v).finish := rfl

@[simp] theorem exec_rdReport (s : State) :
    exec .rdReport s = .next (s.reportRead Config.reportLen Config.reportMasked Config.hasRefresh) := rfl

@[simp] theorem exec_rdId (s : State) : exec .rdId s = .next s.idRead := rfl

@[simp] theorem exec_rdGen (s : State) : exec .rdGen s = .next (s.genericRead 8 (nextOffset s.newAddress s.offset)) := rfl

@[simp] theorem exec_rdGenU (s : State) : exec .rdGenU s = .next (s.genericRead 21 0) := rfl

@[simp] theorem exec_keysetup (s : State) : exec .keysetup s = .next s.keySetup := rfl

@[simp] theorem exec_fgStore (a v : Byte) (s : State) : exec (.fgStore a v) s = .next (s.setReg a v) := rfl

@[simp] theorem exec_fgCs (body : List FgAccess) (s : State) : exec (.fgCs body) s = .next (s.fgBody body) := rfl

@[simp] theorem exec_fgRefresh (s : State) : exec .fgRefresh s = .next (s.consumeRefresh Config.hasRefresh) := rfl

/-- The state that `INIT` leaves is the one `execInit_eq` writes out (70_reset_and_hazards.md R230). -/
@[simp] theorem exec_init (s : State) :
    exec .init s =
      .next
        { s with
          mem := s.initMap.mem, address := 0x00, newAddress := true, offset := 0, bpos := 0, enabled := false
          tables := none, centre := none, centreDone := 0, phase := .running } :=
  execInit_eq s

/-! ### Every operation is total -/

/-- Settles O36, by cases on the operation: each one's equation names the state it answers (00_scope.md R13). -/
theorem operationsAreTotal : Obligations.OperationsAreTotal := by
  intro i s
  cases i with
  | wz => exact ⟨_, exec_wz s⟩
  | sel a => exact ⟨_, exec_sel a s⟩
  | wr a v => exact ⟨_, exec_wr a v s⟩
  | rdReport => exact ⟨_, exec_rdReport s⟩
  | rdId => exact ⟨_, exec_rdId s⟩
  | rdGen => exact ⟨_, exec_rdGen s⟩
  | rdGenU => exact ⟨_, exec_rdGenU s⟩
  | keysetup => exact ⟨_, exec_keysetup s⟩
  | fgStore a v => exact ⟨_, exec_fgStore a v s⟩
  | fgCs body => exact ⟨_, exec_fgCs body s⟩
  | fgRefresh => exact ⟨_, exec_fgRefresh s⟩
  | init => exact ⟨_, exec_init s⟩

end Sys2Proof.Proofs
end

section
/-! Family 10_state.md, the invariant. One rule per state operation, then one per operation of the block, then the step (O34)
and the reset state (O33). -/

namespace Sys2Proof.Proofs

open Sys2Proof.Machine

/-! ### Updates of fields the invariant does not speak of -/

theorem inv_setPending {s : State} (h : s.Inv) (es : List BusEvent) : (s.setPending es).Inv := { h with }

theorem inv_arrive {s : State} (h : s.Inv) (es : List BusEvent) : (s.arrive es).Inv := inv_setPending h _

theorem inv_setInputs {s : State} (h : s.Inv) (is : List Input) : (s.setInputs is).Inv := { h with }

theorem inv_transmit {s : State} (h : s.Inv) (clocks : Option Nat) : (s.transmit clocks).Inv := { h with }

theorem inv_setPhase {s : State} (h : s.Inv) (p : Phase) : (s.setPhase p).Inv := { h with }

theorem inv_clearNew {s : State} (h : s.Inv) : s.clearNew.Inv := { h with }

theorem inv_afterEvent {s : State} (h : s.Inv) (e : BusEvent) : (s.afterEvent e).Inv := by
  cases e with
  | write d => exact h
  | read clocks => exact inv_transmit h clocks

/-! ### Updates of fields it speaks of -/

theorem inv_setReg {s : State} (h : s.Inv) (a v : Byte) : (s.setReg a v).Inv :=
  { h with memCanonical := setReg_wf s a v h.memCanonical }

theorem inv_storeBytes {s : State} (h : s.Inv) (a : Byte) (vs : List Byte) : (s.storeBytes a vs).Inv := by
  induction vs generalizing s a with
  | nil => exact h
  | cons v vs ih => exact ih (inv_setReg h a v) (a + 1)

theorem inv_select {s : State} (h : s.Inv) (a : Byte) : (s.select a).Inv :=
  { h with offsetBound := Nat.zero_le _, bposMultiple := rfl, bposInArea := Nat.zero_lt_succ _ }

theorem inv_setOffset {s : State} (h : s.Inv) {o : Nat} (ho : o ≤ 256) : (s.setOffset o).Inv :=
  { h with offsetBound := ho }

theorem inv_setBpos {s : State} (h : s.Inv) {b : Nat} (hm : b % 8 = 0) (hb : b < Config.reportLen.bytes) : (s.setBpos b).Inv :=
  { h with bposMultiple := hm, bposInArea := hb }

theorem inv_invalidate {s : State} (h : s.Inv) : s.invalidate.Inv :=
  { h with tablesValid := nofun, tablesInvalid := fun _ => rfl }

theorem inv_install {s : State} (h : s.Inv) (T : Tables) : (s.install T).Inv :=
  { h with tablesValid := fun _ => rfl, tablesInvalid := nofun }

theorem inv_keySetup {s : State} (h : s.Inv) : s.keySetup.Inv := inv_install h _

theorem inv_respond {s : State} (h : s.Inv) {seq : List Byte} (hs : seq.length ≤ 21) : (s.respond seq).Inv :=
  { h with responseBound := hs }

theorem inv_signalRefresh {s : State} (h : s.Inv) : (s.signalRefresh Config.hasRefresh).Inv :=
  { h with refreshOnlyIfPresent := fun hr => by simp [hr, h.refreshOnlyIfPresent hr] }

theorem inv_consumeRefresh {s : State} (h : s.Inv) : (s.consumeRefresh Config.hasRefresh).Inv :=
  { h with refreshOnlyIfPresent := fun hr => by simp [hr, h.refreshOnlyIfPresent hr] }

/-! ### The centre report -/

theorem inv_restartCentre {s : State} (h : s.Inv) : s.restartCentre.Inv :=
  { h with centreBound := nofun, centreNotStarted := fun _ => rfl }

/-- F encodes the report before it has made any of its stores. -/
theorem inv_encodeCentre {s : State} (h : s.Inv) (hd : s.centreDue = some .encode) : s.encodeCentre.Inv :=
  have none_done : s.centreDone = 0 := h.centreNotStarted ((centreDue_encode s).1 hd)
  { h with
    centreBound := fun r _ => by simp [none_done]
    centreNotStarted := nofun }

/-- A store that is due is one of the report's, so counting it stays within the report. -/
theorem inv_countCentre {s : State} (h : s.Inv) {op : FgOp} (hd : s.centreDue = some (.store op)) : s.countCentre.Inv := by
  obtain ⟨r, hr, hop⟩ := (centreDue_store s op).1 hd
  obtain ⟨hlt, -⟩ := List.getElem?_eq_some_iff.1 hop
  refine { h with centreBound := fun r' hr' => ?_, centreNotStarted := fun hn => ?_ }
  · obtain rfl : r = r' := Option.some.inj (hr.symm.trans hr')
    exact hlt
  · exact absurd (hr.symm.trans hn) nofun

/-! ### The operations of the block -/

/-- The window pointer stays on the start of a window, for both lengths of the report area (10_state.md R43). -/
theorem nextBpos_multiple (len : ReportLen) {b : Nat} (hb : b % 8 = 0) : nextBpos len b % 8 = 0 := by
  cases len <;> simp only [nextBpos, ReportLen.bytes] <;> omega

theorem nextBpos_lt (len : ReportLen) (b : Nat) : nextBpos len b < len.bytes :=
  Nat.mod_lt _ (by cases len <;> decide)

theorem inv_reportRead {s : State} (h : s.Inv) (masked : Bool) :
    (s.reportRead Config.reportLen masked Config.hasRefresh).Inv :=
  inv_signalRefresh (inv_clearNew
    (inv_setBpos (inv_respond h (by simp)) (nextBpos_multiple _ h.bposMultiple) (nextBpos_lt _ _)))

theorem inv_idRead {s : State} (h : s.Inv) : s.idRead.Inv := inv_clearNew (inv_respond h (by simp))

theorem nextOffset_le (newAddress : Bool) (offset : Nat) : nextOffset newAddress offset ≤ 256 := by
  cases newAddress with
  | true => exact Nat.zero_le _
  | false => exact Nat.min_le_right _ _

theorem inv_genericRead {s : State} (h : s.Inv) {most o : Nat} (hm : most ≤ 21) (ho : o ≤ 256) : (s.genericRead most o).Inv :=
  inv_clearNew (inv_respond (inv_setOffset h ho) (by
    rw [window_length]
    exact (clampLength_le _ _).trans hm))

theorem inv_checkByte {s : State} (h : s.Inv) (t v : Byte) : (s.checkByte t v).Inv := by
  obtain ⟨-, e⟩ | ⟨-, e⟩ := checkByte_cases s t v
  · rw [e]; exact inv_invalidate h
  · rw [e]; exact h

theorem inv_bytes {r : WriteRun} (h : r.st.Inv) (a : Byte) (v : List Byte) : (r.bytes a v).st.Inv := by
  induction v generalizing r a with
  | nil => exact h
  | cons x v ih => exact ih (r := r.byte a x) (inv_setReg (inv_checkByte h a x) _ _) (a + 1)

theorem inv_zeroLegacy {r : WriteRun} (h : r.st.Inv) : r.zeroLegacy.Inv := by
  unfold WriteRun.zeroLegacy
  split
  · exact inv_storeBytes h _ _
  · exact h

theorem inv_finish {r : WriteRun} (h : r.st.Inv) : r.finish.Inv := by
  obtain ⟨-, e⟩ | ⟨-, e⟩ := finish_cases r
  · rw [e]; exact inv_keySetup (inv_zeroLegacy h)
  · rw [e]; exact h

theorem inv_fgBody {s : State} (h : s.Inv) (body : List FgAccess) : (s.fgBody body).Inv := by
  induction body generalizing s with
  | nil => exact h
  | cons x xs ih =>
    cases x with
    | read a => exact ih h
    | store a v => exact ih (inv_setReg h a v)

theorem inv_initMap {s : State} (h : s.Inv) : s.initMap.Inv :=
  inv_storeBytes (inv_storeBytes (inv_setReg (inv_setReg (inv_storeBytes (inv_storeBytes h _ _) _ _) _ _) _ _) _ _) _ _

/-- Every operation keeps the invariant, whatever its operands. -/
theorem exec_keeps_inv {i : Instr} {s t : State} (h : s.Inv) (he : exec i s = .next t) : t.Inv := by
  cases i with
  | wz => cases he; exact h
  | sel a => cases he; exact inv_select h a
  | wr a v => cases he; exact inv_finish (inv_bytes (r := WriteRun.start s) h a v)
  | rdReport => cases he; exact inv_reportRead h _
  | rdId => cases he; exact inv_idRead h
  | rdGen => cases he; exact inv_genericRead h (by decide) (nextOffset_le _ _)
  | rdGenU => cases he; exact inv_genericRead h (by decide) (by decide)
  | keysetup => cases he; exact inv_keySetup h
  | fgStore a v => cases he; exact inv_setReg h a v
  | fgCs body => cases he; exact inv_fgBody h body
  | fgRefresh => cases he; exact inv_consumeRefresh h
  | init => 
    cases he
    exact inv_setPhase (inv_restartCentre (inv_invalidate (inv_select (inv_initMap h) 0x00))) .running

/-! ### The step -/

/-- F's steps for the centre report keep the invariant, when they are due. -/
theorem centreStep_keeps_inv {task : CentreTask} {during : List BusEvent} {rest : List Input} {s t : State} (h : s.Inv)
    (hd : s.centreDue = some task) (ht : centreStep during rest s task = .next t) : t.Inv := by
  obtain ⟨rfl, rfl⟩ | ⟨op, u, rfl, -, hu, rfl⟩ := centreStep_next _ _ _ _ _ ht
  · exact inv_arrive (inv_setInputs (inv_encodeCentre h hd) _) _
  · exact inv_arrive (exec_keeps_inv (inv_setInputs (inv_countCentre h hd) _) hu) _

/-- Settles O34, by cases on the seven things a step can do (`step_next`). -/
theorem stepKeepsTheInvariant : Obligations.StepKeepsTheInvariant := by
  intro s t h hs
  obtain ⟨-, hu⟩ | ⟨-, e, rest, i, u, -, -, hu, rfl⟩ | ⟨-, -, task, during, rest, hd, -, ht⟩ |
    ⟨-, -, -, op, during, rest, u, -, -, hu, rfl⟩ | ⟨-, -, -, during, rest, -, rfl⟩ | ⟨-, -, e, rest, -, rfl⟩ |
    ⟨-, -, -, rfl⟩ := step_next s t hs
  · exact exec_keeps_inv h hu
  · exact inv_afterEvent (exec_keeps_inv (inv_setPending h rest) hu) e
  · exact centreStep_keeps_inv h hd ht
  · exact inv_arrive (exec_keeps_inv (inv_setInputs h rest) hu) during
  · exact inv_arrive (inv_setInputs h rest) during
  · exact inv_arrive (inv_setInputs h rest) [e]
  · exact h

/-- Settles O33, part by part: reset lists no cell, no event and no input, and every bound holds of zero. -/
theorem resetMeetsTheInvariant : Obligations.ResetMeetsTheInvariant where
  left :=
    { memCanonical := wf_nil
      offsetBound := Nat.zero_le _
      bposMultiple := rfl
      bposInArea := by decide
      tablesValid := nofun
      tablesInvalid := fun _ => rfl
      responseBound := Nat.zero_le _
      refreshOnlyIfPresent := fun _ => rfl
      centreBound := nofun
      centreNotStarted := fun _ => rfl }
  right := { pendingOk := nofun, inputsOk := nofun }

end Sys2Proof.Proofs
end

section
/-! Family 10_state.md, the cipher state. What an operation can do to it (O20), and what reads its tables (O21). -/

namespace Sys2Proof.Proofs

open Sys2Proof.Machine

/-! ### What an operation can do to the cipher state -/

/-- Only `INIT`, `KEYSETUP` and a data write touch the cipher state. -/
theorem exec_cipher_cases {i : Instr} {s t : State} (h : exec i s = .next t) :
    (t.enabled = s.enabled ∧ t.tables = s.tables) ∨ (i = .init ∧ t.enabled = false ∧ t.tables = none) ∨ i = .keysetup ∨
      ∃ a v, i = .wr a v := by
  cases i with
  | wr a v => exact .inr (.inr (.inr ⟨a, v, rfl⟩))
  | keysetup => exact .inr (.inr (.inl rfl))
  | init => cases h; exact .inr (.inl ⟨rfl, rfl, rfl⟩)
  | fgCs body =>
    cases h
    rw [fgBody_frame]
    exact .inl ⟨rfl, rfl⟩
  | wz | sel | rdReport | rdId | rdGen | rdGenU | fgStore | fgRefresh => cases h; exact .inl ⟨rfl, rfl⟩

/-- The two ends of a data write, by what its bytes ask for (40_bus_write.md R107). -/
theorem finish_bytes_cases (s : State) (a : Byte) (v : List Byte) :
    (RequestsLegacy a v ∨ CompletesKey a v) ∨
      (¬ RequestsLegacy a v ∧ ¬ CompletesKey a v) ∧
        ((WriteRun.start s).bytes a v).finish = ((WriteRun.start s).bytes a v).st := by
  have legacy := bytes_legacyReq (WriteRun.start s) a v
  have key := bytes_keyComplete (WriteRun.start s) a v
  obtain ⟨h, -⟩ | ⟨⟨hl, hk⟩, e⟩ := finish_cases ((WriteRun.start s).bytes a v)
  · rw [legacy, key] at h
    exact .inl (by simpa [WriteRun.start] using h)
  · rw [hl] at legacy
    rw [hk] at key
    exact .inr ⟨by simpa [WriteRun.start] using And.intro legacy key, e⟩

/-- The bytes of a write can disable the cipher, but never enable it. -/
theorem bytes_stay_disabled {r : WriteRun} (h : r.st.enabled = false) (a : Byte) (v : List Byte) :
    (r.bytes a v).st.enabled = false := by
  by_cases hc : Disables a v ∨ RequestsLegacy a v
  · exact (bytes_cleared r a v hc).1
  · rw [not_or] at hc
    exact (bytes_not_cleared r a v hc.1 hc.2).1.trans h

/-- Settles O20: of the operations that touch the cipher state, `INIT` disables it, and so does a data write that does not end
with key setup. -/
theorem onlyKeySetupEnablesTheCipher : Obligations.OnlyKeySetupEnablesTheCipher := by
  intro i s t h hs ht
  obtain ⟨e, -⟩ | ⟨-, e, -⟩ | rfl | ⟨a, v, rfl⟩ := exec_cipher_cases h
  · exact absurd (e.symm.trans ht) (by simp [hs])
  · exact absurd (e.symm.trans ht) nofun
  · exact .inl rfl
  · refine .inr ⟨a, v, rfl, ?_⟩
    obtain hk | ⟨-, e⟩ := finish_bytes_cases s a v
    · exact hk
    · cases h
      rw [e, bytes_stay_disabled hs] at ht
      cases ht

/-! ### States that differ in nothing but the tables -/

/-- `u` is `s` with other tables, or with the same. -/
def SameButTables (s u : State) : Prop := ∃ T, u = { s with tables := T }

theorem SameButTables.eq_with {s u : State} (h : SameButTables s u) : u = { s with tables := u.tables } := by
  obtain ⟨T, rfl⟩ := h
  rfl

theorem SameButTables.enabled_eq {s u : State} (h : SameButTables s u) : u.enabled = s.enabled := by
  obtain ⟨T, rfl⟩ := h
  rfl

theorem SameButTables.mem_eq {s u : State} (h : SameButTables s u) : u.mem = s.mem := by
  obtain ⟨T, rfl⟩ := h
  rfl

theorem SameButTables.reg_eq {s u : State} (h : SameButTables s u) (b : Byte) : u.reg b = s.reg b := by
  obtain ⟨T, rfl⟩ := h
  rfl

theorem SameButTables.setReg {s u : State} (h : SameButTables s u) (a v : Byte) :
    SameButTables (s.setReg a v) (u.setReg a v) := by
  obtain ⟨T, rfl⟩ := h
  exact ⟨T, rfl⟩

theorem SameButTables.storeBytes {s u : State} (h : SameButTables s u) (a : Byte) (vs : List Byte) :
    SameButTables (s.storeBytes a vs) (u.storeBytes a vs) := by
  induction vs generalizing s u a with
  | nil => exact h
  | cons v vs ih => exact ih (h.setReg a v) (a + 1)

theorem SameButTables.fgBody {s u : State} (h : SameButTables s u) (body : List FgAccess) :
    SameButTables (s.fgBody body) (u.fgBody body) := by
  induction body generalizing s u with
  | nil => exact h
  | cons x xs ih =>
    cases x with
    | read a => exact ih h
    | store a v => exact ih (h.setReg a v)

theorem SameButTables.select {s u : State} (h : SameButTables s u) (a : Byte) : SameButTables (s.select a) (u.select a) := by
  obtain ⟨T, rfl⟩ := h
  exact ⟨T, rfl⟩

theorem SameButTables.consumeRefresh {s u : State} (h : SameButTables s u) (present : Bool) :
    SameButTables (s.consumeRefresh present) (u.consumeRefresh present) := by
  obtain ⟨T, rfl⟩ := h
  exact ⟨T, rfl⟩

/-- Key setup overwrites the tables, so the old ones are forgotten. -/
theorem SameButTables.keySetup {s u : State} (h : SameButTables s u) : SameButTables s.keySetup u.keySetup := by
  obtain ⟨T, rfl⟩ := h
  exact ⟨_, rfl⟩

theorem SameButTables.initMap {s u : State} (h : SameButTables s u) : SameButTables s.initMap u.initMap := by
  have calibrated : SameButTables s.initZero.initCalibration u.initZero.initCalibration :=
    (((h.storeBytes _ _).storeBytes _ _).setReg _ _).setReg _ _
  have copied : SameButTables s.initZero.initCalibration.initCopy u.initZero.initCalibration.initCopy := by
    have block : u.initZero.initCalibration.readBytes 0x20 16 = s.initZero.initCalibration.readBytes 0x20 16 := by
      simp only [State.readBytes, calibrated.reg_eq]
    rw [State.initCopy, State.initCopy, block]
    exact calibrated.storeBytes _ _
  exact copied.storeBytes _ _

/-! ### The reads of a disabled cipher -/

/-- While the cipher is disabled every read window is sent raw (41_bus_read.md R134, R136). -/
theorem window_raw {s : State} (h : s.enabled = false) (masked : Bool) (start n : Nat) :
    s.window masked start n = (List.range n).map fun j => s.reg (BitVec.ofNat 8 (start + j)) := by
  simp only [State.window, sentValue_raw s masked _ h]

theorem SameButTables.window_eq {s u : State} (h : SameButTables s u) (hs : s.enabled = false) (masked : Bool) (start n : Nat) :
    u.window masked start n = s.window masked start n := by
  rw [window_raw hs, window_raw (h.enabled_eq.trans hs)]
  simp only [h.reg_eq]

theorem SameButTables.reportRead {s u : State} (h : SameButTables s u) (hs : s.enabled = false) (len : ReportLen)
    (masked present : Bool) : SameButTables (s.reportRead len masked present) (u.reportRead len masked present) := by
  rw [reportRead_eq, reportRead_eq, h.window_eq hs]
  obtain ⟨T, rfl⟩ := h
  exact ⟨T, rfl⟩

theorem SameButTables.idRead {s u : State} (h : SameButTables s u) (hs : s.enabled = false) :
    SameButTables s.idRead u.idRead := by
  rw [idRead_eq, idRead_eq, h.window_eq hs]
  obtain ⟨T, rfl⟩ := h
  exact ⟨T, rfl⟩

theorem SameButTables.genericRead {s u : State} (h : SameButTables s u) (hs : s.enabled = false) (most o : Nat) :
    SameButTables (s.genericRead most o) (u.genericRead most o) := by
  rw [genericRead_eq, genericRead_eq, h.window_eq hs]
  obtain ⟨T, rfl⟩ := h
  exact ⟨T, rfl⟩

/-! ### A data write to a disabled cipher -/

/-- The checks of a byte never enable the cipher. -/
theorem checkByte_stays_disabled {s : State} (h : s.enabled = false) (t v : Byte) : (s.checkByte t v).enabled = false := by
  obtain ⟨-, e⟩ | ⟨-, e⟩ := checkByte_cases s t v
  · rw [e, invalidate_enabled]
  · rw [e, h]

theorem storedValue_raw {s : State} (h : s.enabled = false) (v t : Byte) : s.storedValue v t = v := by
  simp [State.storedValue, h]

/-- A byte of a data write to a disabled cipher is stored raw (40_bus_write.md R105). -/
theorem byte_st_of_disabled {r : WriteRun} (h : r.st.enabled = false) (t v : Byte) :
    (r.byte t v).st = (r.st.checkByte t v).setReg t v := by
  rw [WriteRun.byte, storedValue_raw (checkByte_stays_disabled h t v)]

theorem SameButTables.checkByte {s u : State} (h : SameButTables s u) (t v : Byte) :
    SameButTables (s.checkByte t v) (u.checkByte t v) := by
  unfold State.checkByte
  split
  · obtain ⟨T, rfl⟩ := h
    exact ⟨none, rfl⟩
  · exact h

/-- Two data writes in progress with equal flags whose states differ in nothing but the tables. -/
structure SameRunButTables (r q : WriteRun) : Prop where
  st : SameButTables r.st q.st
  legacyReq : q.legacyReq = r.legacyReq
  keyComplete : q.keyComplete = r.keyComplete

theorem SameRunButTables.byte {r q : WriteRun} (h : SameRunButTables r q) (hr : r.st.enabled = false) (t v : Byte) :
    SameRunButTables (r.byte t v) (q.byte t v) where
  st := by
    rw [byte_st_of_disabled hr, byte_st_of_disabled (h.st.enabled_eq.trans hr)]
    exact (h.st.checkByte t v).setReg t v
  legacyReq := congrArg (· || legacyTrigger t v) h.legacyReq
  keyComplete := congrArg (· || completeTrigger t) h.keyComplete

theorem SameRunButTables.bytes {r q : WriteRun} (h : SameRunButTables r q) (hr : r.st.enabled = false) (a : Byte)
    (v : List Byte) : SameRunButTables (r.bytes a v) (q.bytes a v) := by
  induction v generalizing r q a with
  | nil => exact h
  | cons x v ih => exact ih (h.byte hr a x) (bytes_stay_disabled hr a [x]) (a + 1)

theorem SameRunButTables.zeroLegacy {r q : WriteRun} (h : SameRunButTables r q) :
    SameButTables r.zeroLegacy q.zeroLegacy := by
  unfold WriteRun.zeroLegacy
  rw [h.legacyReq]
  split
  · exact h.st.storeBytes _ _
  · exact h.st

theorem SameRunButTables.finish {r q : WriteRun} (h : SameRunButTables r q) : SameButTables r.finish q.finish := by
  unfold WriteRun.finish
  rw [h.legacyReq, h.keyComplete]
  split
  · exact h.zeroLegacy.keySetup
  · exact h.zeroLegacy

/-! ### Every operation -/

/-- From two states that differ in nothing but the tables of a disabled cipher, an operation answers two such states. -/
theorem exec_sameButTables (i : Instr) {s u : State} (h : SameButTables s u) (hs : s.enabled = false) :
    ∃ t w, exec i s = .next t ∧ exec i u = .next w ∧ SameButTables t w := by
  cases i with
  | wz => exact ⟨_, _, rfl, rfl, h⟩
  | sel a => exact ⟨_, _, rfl, rfl, h.select a⟩
  | wr a v =>
    have start : SameRunButTables (WriteRun.start s) (WriteRun.start u) := ⟨h, rfl, rfl⟩
    exact ⟨_, _, rfl, rfl, (start.bytes hs a v).finish⟩
  | rdReport => exact ⟨_, _, rfl, rfl, h.reportRead hs _ _ _⟩
  | rdId => exact ⟨_, _, rfl, rfl, h.idRead hs⟩
  | rdGen =>
    have page : nextOffset u.newAddress u.offset = nextOffset s.newAddress s.offset := by rw [h.eq_with]
    exact ⟨_, _, rfl, rfl, page ▸ h.genericRead hs _ _⟩
  | rdGenU => exact ⟨_, _, rfl, rfl, h.genericRead hs _ _⟩
  | keysetup => exact ⟨_, _, rfl, rfl, h.keySetup⟩
  | fgStore a v => exact ⟨_, _, rfl, rfl, h.setReg a v⟩
  | fgCs body => exact ⟨_, _, rfl, rfl, h.fgBody body⟩
  | fgRefresh => exact ⟨_, _, rfl, rfl, h.consumeRefresh _⟩
  | init =>
    refine ⟨_, _, exec_init s, exec_init u, none, ?_⟩
    rw [h.initMap.mem_eq]
    obtain ⟨T, rfl⟩ := h
    rfl

/-- Settles O21: a state with other tables is one that differs in nothing but the tables. -/
theorem disabledCipherIgnoresItsTables : Obligations.DisabledCipherIgnoresItsTables := by
  intro i s T hs
  obtain ⟨t, u, ht, hu, same⟩ := exec_sameButTables i ⟨T, rfl⟩ hs
  exact ⟨t, u, ht, hu, same.eq_with⟩

end Sys2Proof.Proofs
end

section
/-! Family 10_state.md, the register map and the cursor: the saturated page offset (O14), the identification bytes (O27) and what
they hold at reset (O30, O31). -/

namespace Sys2Proof.Proofs

open Sys2Proof.Machine

/-! ### The page offset -/

@[simp] theorem genericRead_response (s : State) (most o : Nat) :
    (s.genericRead most o).response =
      s.window true (s.address.toNat + o) (clampLength most (s.address.toNat + o)) := rfl

/-- A window that starts past the last register is empty. -/
theorem window_past_end (s : State) (masked : Bool) (most start : Nat) (h : 256 ≤ start) :
    s.window masked start (clampLength most start) = [] := by
  have empty : clampLength most start = 0 := by rw [clampLength, Nat.sub_eq_zero_of_le h, Nat.min_zero]
  rw [empty]
  rfl

/-- Settles O14: up to 256 the two offsets are equal, and from there both windows lie past the last register. -/
theorem saturatedOffsetAnswersAsUnbounded : Obligations.SaturatedOffsetAnswersAsUnbounded := by
  intro s most o
  rw [genericRead_response, genericRead_response]
  obtain ho | ho := Nat.le_total o 256
  · rw [Nat.min_eq_left ho]
  · rw [Nat.min_eq_right ho, window_past_end _ _ _ _ (Nat.le_add_left _ _),
      window_past_end _ _ _ _ (ho.trans (Nat.le_add_left _ _))]

/-! ### The identification bytes -/

/-- The identification read sends its six registers raw, whatever the cipher (41_bus_read.md R135). -/
theorem idRead_response (s : State) :
    s.idRead.response = [s.reg 0xFA, s.reg 0xFB, s.reg 0xFC, s.reg 0xFD, s.reg 0xFE, s.reg 0xFF] := rfl

/-- A data write of one byte that meets no check is one store of it. -/
theorem exec_wr_single (s : State) (a x : Byte) (hd : disableTrigger a x = false) (hl : legacyTrigger a x = false)
    (hk : completeTrigger a = false) : exec (.wr a [x]) s = .next (s.setReg a (s.storedValue x a)) := by
  have unchecked : s.checkByte a x = s := by simp [State.checkByte, hd, hl]
  have run : (WriteRun.start s).byte a x = WriteRun.start (s.setReg a (s.storedValue x a)) := by
    simp [WriteRun.byte, WriteRun.start, unchecked, hl, hk]
  rw [exec_wr, WriteRun.bytes, WriteRun.bytes, run]
  rfl

/-- Settles O27: at 0xFA no check of a data write applies, so the write is one store, and the identification read sends it raw. -/
theorem hostWriteToIdentificationIsRead : Obligations.HostWriteToIdentificationIsRead := by
  intro x s
  have write := exec_wr_single s 0xFA x (by simp [disableTrigger]) (by simp [legacyTrigger]) (by decide)
  refine ⟨((s.setReg 0xFA (s.storedValue x 0xFA)).select 0xFA).idRead, ?_, ?_⟩
  · simp only [execAll, write, exec_sel, exec_rdId]
  · rw [idRead_response]
    simp [setReg_reg, State.storedValue]

/-! ### The reset contents -/

theorem reset_reg (b : Byte) : State.reset.reg b = resetByte b.toNat := rfl

theorem resetByte_block {k : Nat} (h : k < 16) : resetByte (0x20 + k) = calByte k := by
  rw [resetByte, if_pos (by omega), Nat.add_sub_cancel_left]

theorem resetByte_copy {k : Nat} (h : k < 16) : resetByte (0x30 + k) = calByte k := by
  rw [resetByte, if_neg (by omega), if_pos (by omega), Nat.add_sub_cancel_left]

theorem resetByte_zero {a : Nat} (h : a < 0x20 ∨ 0x40 ≤ a ∧ a < 0xFA) : resetByte a = 0x00 := by
  rw [resetByte, if_neg (by omega), if_neg (by omega), dif_neg (by omega)]

/-- The calibration block at reset (10_state.md R23). -/
theorem reset_reg_block {k : Nat} (h : k < 16) : State.reset.reg (0x20 + BitVec.ofNat 8 k) = calByte k := by
  have address : ((0x20 : Byte) + BitVec.ofNat 8 k).toNat = 0x20 + k := by bv_omega
  rw [reset_reg, address, resetByte_block h]

/-- Its copy at reset. -/
theorem reset_reg_copy {k : Nat} (h : k < 16) : State.reset.reg (0x30 + BitVec.ofNat 8 k) = calByte k := by
  have address : ((0x30 : Byte) + BitVec.ofNat 8 k).toNat = 0x30 + k := by bv_omega
  rw [reset_reg, address, resetByte_copy h]

theorem calByte_data {k : Nat} (h : k < 14) : calByte k = Config.calData[k] := by rw [calByte, dif_pos h]

/-- The checksum's sum, reduced to a byte before or after (10_state.md R23). -/
theorem calSum_eq_mod : calSum = BitVec.ofNat 8 ((Config.calData.toList.map BitVec.toNat).sum % 256) :=
  BitVec.eq_of_toNat_eq (by simp [calSum])

/-- Settles O30, range by range of the register map (10_state.md R40). -/
theorem resetRegisterMap : Obligations.ResetRegisterMap := by
  refine ⟨fun k h => ?data, ?sum55, ?sumAA, fun k h => ?copy, ?identification, fun b h => ?zero⟩
  case data => rw [reset_reg_block (by omega), calByte_data h]
  case sum55 => rw [← calSum_eq_mod]; exact reset_reg_block (k := 14) (by decide)
  case sumAA => rw [← calSum_eq_mod]; exact reset_reg_block (k := 15) (by decide)
  case copy => rw [reset_reg_copy h, reset_reg_block h]
  case identification => decide
  case zero => rw [reset_reg, resetByte_zero h]

/-- At address 0x00 a read event is a report read, under both policies (41_bus_read.md R131). -/
theorem decodeEvent_read_zero (policy : WindowPolicy) (clocks : Option Nat) :
    decodeEvent policy 0x00 (.read clocks) = .ok .rdReport := rfl

/-- Settles O31: the fields of the reset state, which are those that an address select of 0x00 sets. -/
theorem resetCursorAndCipher : Obligations.ResetCursorAndCipher := by
  refine ⟨rfl, rfl, rfl, rfl, rfl, rfl, ?select, fun policy clocks => decodeEvent_read_zero policy clocks⟩
  case select => rw [exec_sel]; rfl

end Sys2Proof.Proofs
end

section
/-! Family 30_encoding.md, the bytes of a transaction and the event map. The layer first: the address byte, the transport, the read
dispatch and the event map; then what decodes (O45, O46), and the decoder and the encoder as inverses (O47, O48). -/

namespace Sys2Proof.Proofs

open Sys2Proof.Machine

/-! ### The address byte and the transport -/

/-- An address byte is its two fields (30_encoding.md R70). -/
theorem addressByte_slaveOf_isRead (b : Byte) : addressByte (slaveOf b) (isRead b) = b := by
  refine BitVec.eq_of_getLsbD_eq fun i hi => ?_
  refine (BitVec.getLsbD_append (x := slaveOf b) (y := BitVec.ofBool (isRead b))).trans ?_
  cases i with
  | zero => simp [isRead]
  | succ i => simp [slaveOf, Nat.add_comm 1 i]; omega

theorem transport_write (d : List Byte) : transport (addressByte slaveAddr false :: d) = .ok (.write d) := rfl

theorem transport_read : transport [addressByte slaveAddr true] = .ok (.read none) := rfl

/-- Only the two formats of 30_encoding.md R71 and R72 deliver an event. -/
theorem transport_ok {bytes : List Byte} {e : BusEvent} (h : transport bytes = .ok e) :
    (∃ d, bytes = addressByte slaveAddr false :: d ∧ e = .write d) ∨
      bytes = [addressByte slaveAddr true] ∧ e = .read none := by
  cases bytes with
  | nil => cases h
  | cons b d =>
    have fields := addressByte_slaveOf_isRead b
    by_cases hs : slaveOf b = slaveAddr
    · cases hr : isRead b with
      | false =>
        rw [hs, hr] at fields
        subst fields
        rw [transport_write] at h
        cases h
        exact .inl ⟨d, rfl, rfl⟩
      | true =>
        rw [hs, hr] at fields
        subst fields
        cases d with
        | nil =>
          rw [transport_read] at h
          cases h
          exact .inr ⟨rfl, rfl⟩
        | cons x d => cases h
    · simp [transport, hs] at h

/-! ### The read dispatch -/

theorem selectRead_zero (p : WindowPolicy) : selectRead p 0x00 = .rdReport := rfl

theorem selectRead_id (p : WindowPolicy) : selectRead p 0xFA = .rdId := rfl

theorem selectRead_paged {x : Byte} (h0 : x ≠ 0x00) (hid : x ≠ 0xFA) : selectRead .paged8 x = .rdGen := by
  rw [selectRead, if_neg h0, if_neg hid]

theorem selectRead_unpaged {x : Byte} (h0 : x ≠ 0x00) (hid : x ≠ 0xFA) : selectRead .unpaged21 x = .rdGenU := by
  rw [selectRead, if_neg h0, if_neg hid]

/-- The read that the dispatch selects is one of the reads that share a wire encoding, and the one selected there. -/
theorem selectRead_spec (p : WindowPolicy) (x : Byte) :
    encode (selectRead p x) = some [addressByte slaveAddr true] ∧ (selectRead p x).wellFormed = true ∧
      (selectRead p x).selectedBy p x = true := by
  by_cases h0 : x = 0x00
  · subst h0
    rw [selectRead_zero]
    exact ⟨rfl, rfl, rfl⟩
  by_cases hid : x = 0xFA
  · subst hid
    rw [selectRead_id]
    exact ⟨rfl, rfl, rfl⟩
  cases p with
  | paged8 =>
    rw [selectRead_paged h0 hid]
    exact ⟨rfl, rfl, by simpa [Instr.selectedBy] using And.intro h0 hid⟩
  | unpaged21 =>
    rw [selectRead_unpaged h0 hid]
    exact ⟨rfl, rfl, by simpa [Instr.selectedBy] using And.intro h0 hid⟩

/-! ### The event map -/

theorem decodeEvent_nil (p : WindowPolicy) (x : Byte) : decodeEvent p x (.write []) = .ok .wz := rfl

theorem decodeEvent_single (p : WindowPolicy) (x a : Byte) : decodeEvent p x (.write [a]) = .ok (.sel a) := rfl

theorem decodeEvent_data (p : WindowPolicy) (x a b : Byte) (v : List Byte)
    (h : (a :: b :: v).length ≤ Config.maxWriteLen) :
    decodeEvent p x (.write (a :: b :: v)) = .ok (.wr a (b :: v)) := if_pos h

theorem decodeEvent_too_long (p : WindowPolicy) (x a b : Byte) (v : List Byte)
    (h : ¬ (a :: b :: v).length ≤ Config.maxWriteLen) :
    decodeEvent p x (.write (a :: b :: v)) = .error .writeTooLong := if_neg h

theorem decodeEvent_read (p : WindowPolicy) (x : Byte) (k : Option Nat) :
    decodeEvent p x (.read k) = .ok (selectRead p x) := rfl

/-- The three rows of 30_encoding.md R75 for a write. -/
theorem decodeEvent_write_ok {p : WindowPolicy} {x : Byte} {d : List Byte} {i : Instr}
    (h : decodeEvent p x (.write d) = .ok i) :
    (d = [] ∧ i = .wz) ∨ (∃ a, d = [a] ∧ i = .sel a) ∨
      ∃ a b v, d = a :: b :: v ∧ d.length ≤ Config.maxWriteLen ∧ i = .wr a (b :: v) := by
  match d with
  | [] => cases h; exact .inl ⟨rfl, rfl⟩
  | [a] => cases h; exact .inr (.inl ⟨a, rfl, rfl⟩)
  | a :: b :: v =>
    by_cases hl : (a :: b :: v).length ≤ Config.maxWriteLen
    · rw [decodeEvent_data p x a b v hl] at h
      cases h
      exact .inr (.inr ⟨a, b, v, rfl, hl, rfl⟩)
    · rw [decodeEvent_too_long p x a b v hl] at h
      cases h

/-- Every write that fits `MAX_WRITE_LEN` decodes, and no other (30_encoding.md R77, R78). -/
theorem write_wellFormed_iff (p : WindowPolicy) (x : Byte) (d : List Byte) :
    (BusEvent.write d).wellFormed = true ↔ ∃ i, decodeEvent p x (.write d) = .ok i := by
  have fits : (BusEvent.write d).wellFormed = true ↔ d.length ≤ Config.maxWriteLen := decide_eq_true_iff
  have least : 2 ≤ Config.maxWriteLen := Nat.le_add_left 2 _
  rw [fits]
  constructor
  · intro hl
    match d with
    | [] => exact ⟨_, decodeEvent_nil p x⟩
    | [a] => exact ⟨_, decodeEvent_single p x a⟩
    | a :: b :: v => exact ⟨_, decodeEvent_data p x a b v hl⟩
  · rintro ⟨i, hi⟩
    obtain ⟨rfl, -⟩ | ⟨a, rfl, -⟩ | ⟨a, b, v, -, hl, -⟩ := decodeEvent_write_ok hi
    · exact Nat.zero_le _
    · exact Nat.le_trans (by simp) least
    · exact hl

/-- Settles O45, row by row; a read always decodes, and `write_wellFormed_iff` says which writes do. -/
theorem eventMapIsTotal : Obligations.EventMapIsTotal := by
  refine ⟨decodeEvent_nil, decodeEvent_single, decodeEvent_data, ?report, ?id, ?paged, ?unpaged, ?total⟩
  case report => intro p k; rw [decodeEvent_read, selectRead_zero]
  case id => intro p k; rw [decodeEvent_read, selectRead_id]
  case paged => intro x k h0 hid; rw [decodeEvent_read, selectRead_paged h0 hid]
  case unpaged => intro x k h0 hid; rw [decodeEvent_read, selectRead_unpaged h0 hid]
  case total =>
    intro p x e
    cases e with
    | write d => exact write_wellFormed_iff p x d
    | read k => exact ⟨fun _ => ⟨_, decodeEvent_read p x k⟩, fun _ => rfl⟩

/-! ### The decoder and the encoder -/

/-- The decoder is the event map after the transport. -/
theorem decode_ok_iff {p : WindowPolicy} {x : Byte} {bytes : List Byte} {i : Instr} :
    decode p x bytes = .ok i ↔ ∃ e, transport bytes = .ok e ∧ decodeEvent p x e = .ok i := by
  unfold decode
  cases transport bytes <;> simp

theorem decode_write (p : WindowPolicy) (x : Byte) (d : List Byte) :
    decode p x (addressByte slaveAddr false :: d) = decodeEvent p x (.write d) := rfl

theorem decode_read (p : WindowPolicy) (x : Byte) :
    decode p x [addressByte slaveAddr true] = .ok (selectRead p x) := rfl

/-- Settles O46: writes by their length, reads by the dispatch, and the slave address 0x53 refused. The address bytes are those of
`slaveAddr` (30_encoding.md R70). -/
theorem sampleTransactionsDecode : Obligations.SampleTransactionsDecode := by
  have writeByte : (0xA4 : Byte) = addressByte slaveAddr false := by decide
  have readByte : (0xA5 : Byte) = addressByte slaveAddr true := by decide
  unfold Obligations.SampleTransactionsDecode
  rw [writeByte, readByte]
  refine ⟨rfl, rfl, ?data, rfl, rfl, ?paged, ?unpaged, by decide⟩
  case data => rw [decode_write, decodeEvent_data _ _ _ _ _ (by decide)]
  case paged => rw [decode_read, selectRead_paged (by decide) (by decide)]
  case unpaged => rw [decode_read, selectRead_unpaged (by decide) (by decide)]

/-- Settles O47, by cases on the operation: a write decodes by its length, which `wellFormed` bounds; a read by the cursor address
and the policy that select it; the internal operations have no encoding (30_encoding.md R76). -/
theorem decodeUndoesEncode : Obligations.DecodeUndoesEncode := by
  intro p x i bytes hw hs he
  cases i with
  | wz => cases he; rw [decode_write, decodeEvent_nil]
  | sel a => cases he; rw [decode_write, decodeEvent_single]
  | wr a v =>
    cases he
    simp only [Instr.wellFormed, Bool.and_eq_true, decide_eq_true_eq] at hw
    obtain ⟨nonempty, fits⟩ := hw
    obtain ⟨b, v, rfl⟩ := List.exists_cons_of_ne_nil nonempty
    rw [decode_write, decodeEvent_data p x a b v fits]
  | rdReport =>
    cases he
    obtain rfl : x = 0x00 := by simpa [Instr.selectedBy] using hs
    rw [decode_read, selectRead_zero]
  | rdId =>
    cases he
    obtain rfl : x = 0xFA := by simpa [Instr.selectedBy] using hs
    rw [decode_read, selectRead_id]
  | rdGen =>
    cases he
    obtain ⟨⟨rfl, h0⟩, hid⟩ : (p = .paged8 ∧ x ≠ 0x00) ∧ x ≠ 0xFA := by simpa [Instr.selectedBy] using hs
    rw [decode_read, selectRead_paged h0 hid]
  | rdGenU =>
    cases he
    obtain ⟨⟨rfl, h0⟩, hid⟩ : (p = .unpaged21 ∧ x ≠ 0x00) ∧ x ≠ 0xFA := by simpa [Instr.selectedBy] using hs
    rw [decode_read, selectRead_unpaged h0 hid]
  | keysetup | fgStore | fgCs | fgRefresh | init => cases he

/-- Settles O48: the transport delivers an event for the two formats only; a write goes by the three rows of
`decodeEvent_write_ok`, and a read is the one that `selectRead_spec` speaks of. -/
theorem encodeUndoesDecode : Obligations.EncodeUndoesDecode := by
  intro p x bytes i h
  obtain ⟨e, ht, hd⟩ := decode_ok_iff.1 h
  obtain ⟨d, rfl, rfl⟩ | ⟨rfl, rfl⟩ := transport_ok ht
  · obtain ⟨rfl, rfl⟩ | ⟨a, rfl, rfl⟩ | ⟨a, b, v, rfl, fits, rfl⟩ := decodeEvent_write_ok hd
    · exact ⟨rfl, rfl, rfl⟩
    · exact ⟨rfl, rfl, rfl⟩
    · exact ⟨rfl, by simpa [Instr.wellFormed] using fits, rfl⟩
  · rw [decodeEvent_read] at hd
    cases hd
    exact selectRead_spec p x

end Sys2Proof.Proofs
end

section
/-! Family 30_encoding.md, the step. What an operation leaves to the transport, and the bus step that takes a pending event; then
the queues (O35), a read's bytes (O42, O43) and a placed word (O44). -/

namespace Sys2Proof.Proofs

open Sys2Proof.Machine

/-! ### What an operation leaves to the transport -/

/-- The queues and the master's record are as they were: the fields of the transport and of the outside world. -/
structure SameTransport (s t : State) : Prop where
  pending : t.pending = s.pending
  inputs : t.inputs = s.inputs
  received : t.received = s.received

/-- A data write reaches the register map and the cipher state only (40_bus_write.md R108). -/
theorem sameTransport_finish (s : State) (a : Byte) (v : List Byte) :
    SameTransport s ((WriteRun.start s).bytes a v).finish := by
  have bytes : SameTransport s ((WriteRun.start s).bytes a v).st := by
    rw [bytes_frame]
    exact ⟨rfl, rfl, rfl⟩
  obtain ⟨-, e⟩ | ⟨-, e⟩ := finish_cases ((WriteRun.start s).bytes a v)
  · rw [e, zeroLegacy_frame]
    exact ⟨bytes.pending, bytes.inputs, bytes.received⟩
  · rw [e]
    exact bytes

/-- No operation takes an event, an input or a record (60_exceptions.md R203). -/
theorem exec_sameTransport {i : Instr} {s t : State} (h : exec i s = .next t) : SameTransport s t := by
  cases i with
  | wr a v => cases h; exact sameTransport_finish s a v
  | fgCs body => cases h; rw [fgBody_frame]; exact ⟨rfl, rfl, rfl⟩
  | init => cases (exec_init s).symm.trans h; exact ⟨rfl, rfl, rfl⟩
  | wz | sel | rdReport | rdId | rdGen | rdGenU | keysetup | fgStore | fgRefresh => cases h; exact ⟨rfl, rfl, rfl⟩

/-! ### Inputs the hardware can see -/

theorem SameTransport.inputsOk {s t : State} (h : SameTransport s t) (hs : s.InputsOk) : t.InputsOk where
  pendingOk := h.pending ▸ hs.pendingOk
  inputsOk := h.inputs ▸ hs.inputsOk

theorem exec_keeps_inputsOk {i : Instr} {s t : State} (h : s.InputsOk) (he : exec i s = .next t) : t.InputsOk :=
  (exec_sameTransport he).inputsOk h

theorem inputsOk_setPending {s : State} (h : s.InputsOk) {es : List BusEvent} (hes : ∀ e ∈ es, e.wellFormed = true) :
    (s.setPending es).InputsOk :=
  ⟨hes, h.inputsOk⟩

theorem inputsOk_arrive {s : State} (h : s.InputsOk) {es : List BusEvent} (hes : ∀ e ∈ es, e.wellFormed = true) :
    (s.arrive es).InputsOk :=
  inputsOk_setPending h (List.forall_mem_append.2 ⟨h.pendingOk, hes⟩)

theorem inputsOk_setInputs {s : State} (h : s.InputsOk) {is : List Input} (his : ∀ x ∈ is, x.wellFormed = true) :
    (s.setInputs is).InputsOk :=
  ⟨h.pendingOk, his⟩

theorem inputsOk_encodeCentre {s : State} (h : s.InputsOk) : s.encodeCentre.InputsOk := ⟨h.pendingOk, h.inputsOk⟩

theorem inputsOk_countCentre {s : State} (h : s.InputsOk) : s.countCentre.InputsOk := ⟨h.pendingOk, h.inputsOk⟩

theorem inputsOk_afterEvent {s : State} (h : s.InputsOk) (e : BusEvent) : (s.afterEvent e).InputsOk := by
  cases e with
  | write d => exact h
  | read k => exact ⟨h.pendingOk, h.inputsOk⟩

theorem centre_wellFormed_iff (during : List BusEvent) :
    (Input.centre during).wellFormed = true ↔ ∀ e ∈ during, e.wellFormed = true := List.all_eq_true

theorem foreground_wellFormed_iff (op : FgOp) (during : List BusEvent) :
    (Input.foreground op during).wellFormed = true ↔ op.wellFormed = true ∧ ∀ e ∈ during, e.wellFormed = true := by
  rw [Input.wellFormed, Bool.and_eq_true, List.all_eq_true]

/-- A step of F for the centre report, when what stays to come and what arrives is possible. -/
theorem centreStep_keeps_inputsOk {task : CentreTask} {during : List BusEvent} {rest : List Input} {s t : State}
    (h : s.InputsOk) (hd : ∀ e ∈ during, e.wellFormed = true) (hr : ∀ x ∈ rest, x.wellFormed = true)
    (ht : centreStep during rest s task = .next t) : t.InputsOk := by
  obtain ⟨-, rfl⟩ | ⟨op, u, -, -, hu, rfl⟩ := centreStep_next _ _ _ _ _ ht
  · exact inputsOk_arrive (inputsOk_setInputs (inputsOk_encodeCentre h) hr) hd
  · exact inputsOk_arrive (exec_keeps_inputsOk (inputsOk_setInputs (inputsOk_countCentre h) hr) hu) hd

/-- Settles O35, by cases on the seven things a step can do (`step_next`): what stays in the queues was there, and what arrives came
with an entry of the input list. -/
theorem stepKeepsInputsPossible : Obligations.StepKeepsInputsPossible := by
  intro s t h hs
  have queue := h.pendingOk
  have list := h.inputsOk
  obtain ⟨-, hu⟩ | ⟨-, e, rest, i, u, hq, -, hu, rfl⟩ | ⟨-, -, task, during, rest, -, hi, ht⟩ |
    ⟨-, -, -, op, during, rest, u, hi, -, hu, rfl⟩ | ⟨-, -, -, during, rest, hi, rfl⟩ | ⟨-, -, e, rest, hi, rfl⟩ |
    ⟨-, -, -, rfl⟩ := step_next s t hs
  · exact exec_keeps_inputsOk h hu
  · rw [hq] at queue
    exact inputsOk_afterEvent (exec_keeps_inputsOk (inputsOk_setPending h (List.forall_mem_cons.1 queue).2) hu) e
  · obtain hi | ⟨rfl, rfl, -⟩ := hi
    · rw [hi] at list
      obtain ⟨head, tail⟩ := List.forall_mem_cons.1 list
      exact centreStep_keeps_inputsOk h ((centre_wellFormed_iff during).1 head) tail ht
    · exact centreStep_keeps_inputsOk h (List.forall_mem_nil _) list ht
  · rw [hi] at list
    obtain ⟨head, tail⟩ := List.forall_mem_cons.1 list
    obtain ⟨-, arrivals⟩ := (foreground_wellFormed_iff op during).1 head
    exact inputsOk_arrive (exec_keeps_inputsOk (inputsOk_setInputs h tail) hu) arrivals
  · rw [hi] at list
    obtain ⟨head, tail⟩ := List.forall_mem_cons.1 list
    exact inputsOk_arrive (inputsOk_setInputs h tail) ((centre_wellFormed_iff during).1 head)
  · rw [hi] at list
    obtain ⟨head, tail⟩ := List.forall_mem_cons.1 list
    exact inputsOk_arrive (inputsOk_setInputs h tail) (List.forall_mem_singleton.2 head)
  · exact h

/-! ### The bus step -/

/-- A running block with an event pending runs the operation it decodes to, then the transport's part (60_exceptions.md R204). -/
theorem step_of_pending {s : State} {e : BusEvent} {rest : List BusEvent} {i : Instr} (hp : s.phase = .running)
    (hq : s.pending = e :: rest) (hd : decodeEvent Config.windowPolicy s.address e = .ok i) :
    ∃ t, exec i (s.setPending rest) = .next t ∧ step s = .next (t.afterEvent e) := by
  obtain ⟨t, ht⟩ := operationsAreTotal i (s.setPending rest)
  refine ⟨t, ht, ?_⟩
  rw [step, machineStep, hp, runningStep, hq]
  simp only [busStep, hd, ht]

/-- With a read pending: the read that the cursor selects, and then its response for the master. -/
theorem step_of_pending_read {s : State} {k : Option Nat} {rest : List BusEvent} (hp : s.phase = .running)
    (hq : s.pending = .read k :: rest) :
    ∃ t, exec (selectRead Config.windowPolicy s.address) (s.setPending rest) = .next t ∧ step s = .next (t.transmit k) :=
  step_of_pending hp hq (decodeEvent_read _ _ k)

/-! ### What the master receives -/

/-- The master receives as many bytes as it clocks, by default the response's length (30_encoding.md R72, R79). -/
theorem clocked_length (k : Option Nat) (response : List Byte) (draws : Nat) :
    (clocked k response draws).length = k.getD response.length := by
  simp [clocked, padCount]
  omega

/-- As far as both go, what it receives is the response (30_encoding.md R72). -/
theorem clocked_getElem? (k : Option Nat) (response : List Byte) (draws j : Nat)
    (hl : j < (clocked k response draws).length) (hr : j < response.length) :
    (clocked k response draws)[j]? = response[j]? := by
  rw [clocked_length] at hl
  have taken : j < (response.take (k.getD response.length)).length := by rw [List.length_take]; omega
  rw [clocked, List.getElem?_append_left taken, List.getElem?_take_of_lt hl]

/-- Settles O42: the step's record is longer by `clocked` of the response, which no operation's own part touches. -/
theorem masterReceivesTheResponse : Obligations.MasterReceivesTheResponse := by
  intro s k rest hp hq
  obtain ⟨t, ht, hs⟩ := step_of_pending_read hp hq
  refine ⟨t.transmit k, clocked k t.response t.padDraws, hs, ?_, clocked_length _ _ _, clocked_getElem? _ _ _⟩
  rw [transmit_received, (exec_sameTransport ht).received, setPending_received]

/-- Settles O43: both steps run the same read from the same state, and then pass its response on for different counts. -/
theorem clockCountChangesNoEngineState : Obligations.ClockCountChangesNoEngineState := by
  intro s k l rest hp
  obtain ⟨t, ht, hs⟩ := step_of_pending_read (s := { s with pending := .read k :: rest }) hp rfl
  obtain ⟨u, hu, hs'⟩ := step_of_pending_read (s := { s with pending := .read l :: rest }) hp rfl
  cases ht.symm.trans hu
  exact ⟨_, _, hs, hs', rfl⟩

/-! ### A placed word -/

/-- A table word that decodes to an operation is a transaction, and its event decodes with the cursor at `tableAddress`. -/
theorem decodeTableWord_some {nbits w : Nat} {i : Instr} (h : decodeTableWord nbits w = some i) :
    ∃ e, transport (wordBytes nbits w) = .ok e ∧ decodeEvent Config.windowPolicy tableAddress e = .ok i := by
  refine decode_ok_iff.1 ?_
  unfold decodeTableWord at h
  split at h
  · next j hj => cases h; exact hj
  · cases h

/-- A write decodes by its bytes alone (30_encoding.md R75). -/
theorem decodeEvent_write_address (p : WindowPolicy) (x y : Byte) (d : List Byte) :
    decodeEvent p x (.write d) = decodeEvent p y (.write d) := by
  match d with
  | [] => rfl
  | [a] => rfl
  | a :: b :: v => rfl

/-- In a state with an event placed, the event is the first one pending of a running block, and it decodes as at `tableAddress`. -/
theorem stage_spec (s : State) (e : BusEvent) :
    (s.stage e).phase = .running ∧ (s.stage e).pending = e :: s.pending ∧
      ∀ p, decodeEvent p (s.stage e).address e = decodeEvent p tableAddress e := by
  cases e with
  | write d => exact ⟨rfl, rfl, fun p => decodeEvent_write_address p _ _ d⟩
  | read k => exact ⟨rfl, rfl, fun _ => rfl⟩

/-- To place a word is to place the event of its transaction. -/
theorem withFetchWord_eq_stage (s : State) {nbits w : Nat} {e : BusEvent} (h : transport (wordBytes nbits w) = .ok e) :
    s.withFetchWord nbits w = s.stage e := by
  rw [State.withFetchWord, State.stageWord, h]

/-- Settles O44: the placed word's event is pending before all others, so the step takes it (`step_of_pending`). -/
theorem stagedWordRunsNext : Obligations.StagedWordRunsNext := by
  intro s nbits w i h
  obtain ⟨e, he, hd⟩ := decodeTableWord_some h
  obtain ⟨running, first, address⟩ := stage_spec s e
  obtain ⟨t, ht, hs⟩ := step_of_pending running first ((address _).trans hd)
  rw [withFetchWord_eq_stage s he]
  exact ⟨e, t, he, ht, hs⟩

end Sys2Proof.Proofs
end

section
/-! Family 30_encoding.md, the key sequences. A data write to a disabled cipher that meets no check, the parts of a key, and the two
ways to send one (O7). -/

namespace Sys2Proof.Proofs

open Sys2Proof.Machine

/-! ### Stores in two parts -/

theorem target_add (a : Byte) (i j : Nat) : target (target a i) j = target a (i + j) := by
  rw [target, target, target, BitVec.add_assoc, BitVec.ofNat_add]

theorem storeBytes_append (s : State) (a : Byte) (v w : List Byte) :
    s.storeBytes a (v ++ w) = (s.storeBytes a v).storeBytes (target a v.length) w := by
  induction v generalizing s a with
  | nil => rw [List.nil_append, List.length_nil, target_zero]; rfl
  | cons x v ih =>
    rw [List.cons_append, State.storeBytes, State.storeBytes, ih, List.length_cons, target_succ]

theorem storeBytes_enabled (s : State) (a : Byte) (v : List Byte) : (s.storeBytes a v).enabled = s.enabled := by
  rw [storeBytes_frame]

/-! ### A data write to a disabled cipher that meets no check -/

/-- Without a disabling byte and a legacy byte, the bytes are plain stores (40_bus_write.md R105, R106). -/
theorem bytes_st_unchecked {r : WriteRun} (hr : r.st.enabled = false) {a : Byte} {v : List Byte} (hd : ¬ Disables a v)
    (hl : ¬ RequestsLegacy a v) : (r.bytes a v).st = r.st.storeBytes a v := by
  induction v generalizing r a with
  | nil => rfl
  | cons x v ih =>
    rw [disables_cons, not_or] at hd
    rw [requestsLegacy_cons, not_or] at hl
    have first : (r.byte a x).st = r.st.setReg a x := by
      obtain ⟨trigger, -⟩ | ⟨-, e⟩ := checkByte_cases r.st a x
      · exact absurd trigger (not_or.2 ⟨hd.1, hl.1⟩)
      · rw [byte_st_of_disabled hr, e]
    rw [WriteRun.bytes, ih (by rw [first]; exact hr) hd.2 hl.2, first, State.storeBytes]

/-- Such a write is its stores, if it does not complete the key either. -/
theorem exec_wr_plain {s : State} (hs : s.enabled = false) {a : Byte} {v : List Byte} (hd : ¬ Disables a v)
    (hl : ¬ RequestsLegacy a v) (hk : ¬ CompletesKey a v) : exec (.wr a v) s = .next (s.storeBytes a v) := by
  obtain request | ⟨-, e⟩ := finish_bytes_cases s a v
  · exact absurd request (not_or.2 ⟨hl, hk⟩)
  · rw [exec_wr, e, bytes_st_unchecked (r := WriteRun.start s) hs hd hl]
    rfl

/-- If it completes the key, key setup follows its stores (40_bus_write.md R107). -/
theorem exec_wr_completing {s : State} (hs : s.enabled = false) {a : Byte} {v : List Byte} (hd : ¬ Disables a v)
    (hl : ¬ RequestsLegacy a v) (hk : CompletesKey a v) : exec (.wr a v) s = .next (s.storeBytes a v).keySetup := by
  have legacy : ((WriteRun.start s).bytes a v).legacyReq = false := by
    rw [← Bool.not_eq_true, bytes_legacyReq]
    simpa [WriteRun.start] using hl
  have key : ((WriteRun.start s).bytes a v).keyComplete = true := (bytes_keyComplete _ _ _).2 (.inr hk)
  rw [exec_wr, WriteRun.finish, WriteRun.zeroLegacy, legacy, key, bytes_st_unchecked (r := WriteRun.start s) hs hd hl]
  rfl

/-! ### The parts of a key -/

theorem keyArea_toNat {i : Nat} (h : i < 16) : (target 0x40 i).toNat = 0x40 + i := by
  unfold target
  bv_omega

/-- `v` is what a key of 16 bytes holds from its byte `o` on, or a part of that, and byte 0 of the key is no legacy request. -/
structure KeyPart (o : Nat) (v : List Byte) : Prop where
  fits : o + v.length ≤ 16
  notLegacy : o = 0 → v[0]? ≠ some 0x00

/-- Where byte `i` of a part goes. -/
theorem KeyPart.target_toNat {o : Nat} {v : List Byte} (h : KeyPart o v) {i : Nat} (hi : i < v.length) :
    (target (target 0x40 o) i).toNat = 0x40 + (o + i) := by
  have fits := h.fits
  rw [target_add, keyArea_toNat (by omega)]

theorem KeyPart.not_disables {o : Nat} {v : List Byte} (h : KeyPart o v) : ¬ Disables (target 0x40 o) v := by
  rintro ⟨i, hi, -, e, -⟩
  have reaches := h.target_toNat hi
  have fits := h.fits
  rw [e, show (0xF0 : Byte).toNat = 0xF0 from rfl] at reaches
  omega

theorem KeyPart.not_requestsLegacy {o : Nat} {v : List Byte} (h : KeyPart o v) : ¬ RequestsLegacy (target 0x40 o) v := by
  rintro ⟨i, hi, -, e, zero⟩
  have reaches := h.target_toNat hi
  rw [e, show (0x40 : Byte).toNat = 0x40 from rfl] at reaches
  obtain ⟨rfl, rfl⟩ : o = 0 ∧ i = 0 := by omega
  exact h.notLegacy rfl (by rw [List.getElem?_eq_getElem hi, zero])

/-- A part completes the key exactly when it holds the key's last byte. -/
theorem KeyPart.completesKey_iff {o : Nat} {v : List Byte} (h : KeyPart o v) (ho : o < 16) :
    CompletesKey (target 0x40 o) v ↔ o + v.length = 16 := by
  have fits := h.fits
  constructor
  · rintro ⟨i, hi, e⟩
    have reaches := h.target_toNat hi
    rw [e, show (0x4F : Byte).toNat = 0x4F from rfl] at reaches
    omega
  · intro last
    refine ⟨15 - o, by omega, BitVec.eq_of_toNat_eq ?_⟩
    rw [h.target_toNat (by omega), show (0x4F : Byte).toNat = 0x4F from rfl]
    omega

/-- A part before the last is stored. -/
theorem KeyPart.exec_early {o : Nat} {v : List Byte} (h : KeyPart o v) {s : State} (hs : s.enabled = false)
    (early : o + v.length < 16) : exec (.wr (target 0x40 o) v) s = .next (s.storeBytes (target 0x40 o) v) :=
  exec_wr_plain hs h.not_disables h.not_requestsLegacy fun hk =>
    absurd ((h.completesKey_iff (by omega)).1 hk) (Nat.ne_of_lt early)

/-- The last part is stored, and key setup runs. -/
theorem KeyPart.exec_last {o : Nat} {v : List Byte} (h : KeyPart o v) {s : State} (hs : s.enabled = false)
    (ho : o < 16) (last : o + v.length = 16) :
    exec (.wr (target 0x40 o) v) s = .next (s.storeBytes (target 0x40 o) v).keySetup :=
  exec_wr_completing hs h.not_disables h.not_requestsLegacy ((h.completesKey_iff ho).2 last)

/-! ### The whole key -/

/-- Sixteen bytes stored from 0x40 on are the key material (10_state.md R24). -/
theorem keyMaterial_storeBytes (s : State) (k : Vector Byte 16) : (s.storeBytes 0x40 k.toList).keyMaterial = k := by
  refine Vector.ext fun j hj => ?_
  have distance : ((0x40 : Byte) + BitVec.ofNat 8 j - 0x40).toNat = j := by bv_omega
  rw [State.keyMaterial, Vector.getElem_ofFn, storeBytes_reg _ _ _ (by simp), distance]
  simp [hj]

/-- A key sent in one write (`KEY` of 30_encoding.md R80). -/
theorem exec_key {s : State} (hs : s.enabled = false) {v : List Byte} (h0 : v[0]? ≠ some 0x00) (h : v.length = 16) :
    exec (.wr 0x40 v) s = .next (s.storeBytes 0x40 v).keySetup :=
  KeyPart.exec_last (o := 0) ⟨by omega, fun _ => h0⟩ hs (by decide) (by omega)

/-- A key sent in writes of 6, 6 and 4 bytes (`KEY3` of 30_encoding.md R80): key setup runs with the last. -/
theorem execAll_key3 {s : State} (hs : s.enabled = false) {v w x : List Byte} (h0 : v[0]? ≠ some 0x00)
    (hv : v.length = 6) (hw : w.length = 6) (hx : x.length = 4) :
    execAll [.wr 0x40 v, .wr 0x46 w, .wr 0x4C x] s = .next (s.storeBytes 0x40 (v ++ (w ++ x))).keySetup := by
  have part1 : KeyPart 0 v := ⟨by omega, fun _ => h0⟩
  have part2 : KeyPart 6 w := ⟨by omega, nofun⟩
  have part3 : KeyPart 12 x := ⟨by omega, nofun⟩
  have write1 : exec (.wr 0x40 v) s = .next (s.storeBytes 0x40 v) := part1.exec_early hs (by omega)
  have off1 := (storeBytes_enabled s 0x40 v).trans hs
  have write2 : exec (.wr 0x46 w) (s.storeBytes 0x40 v) = .next ((s.storeBytes 0x40 v).storeBytes 0x46 w) :=
    part2.exec_early off1 (by omega)
  have off2 := (storeBytes_enabled (s.storeBytes 0x40 v) 0x46 w).trans off1
  have write3 : exec (.wr 0x4C x) ((s.storeBytes 0x40 v).storeBytes 0x46 w) =
      .next (((s.storeBytes 0x40 v).storeBytes 0x46 w).storeBytes 0x4C x).keySetup :=
    part3.exec_last off2 (by decide) (by omega)
  have joined : s.storeBytes 0x40 (v ++ (w ++ x)) = ((s.storeBytes 0x40 v).storeBytes 0x46 w).storeBytes 0x4C x := by
    rw [storeBytes_append, storeBytes_append, hv, hw]
    rfl
  simp only [execAll, write1, write2, write3, joined]

/-- Settles O7: the three parts are the whole key, so both sequences store it and then run key setup, over the same registers. -/
theorem keyInOneWriteOrThree : Obligations.KeyInOneWriteOrThree := by
  intro k s hs h0
  have first : k.toList[0]? ≠ some 0x00 := by simpa using h0
  have parts : k.toList.take 6 ++ ((k.toList.drop 6).take 6 ++ k.toList.drop 12) = k.toList := by
    have rest : (k.toList.drop 6).drop 6 = k.toList.drop 12 := by rw [List.drop_drop]
    rw [← rest, List.take_append_drop, List.take_append_drop]
  refine ⟨(s.storeBytes 0x40 k.toList).keySetup, exec_key hs first (by simp), ?three, ?key, keySetup_enabled _, ?tables⟩
  case three =>
    rw [execAll_key3 hs (by simpa using h0) (by simp) (by simp) (by simp), parts]
  case key => rw [keySetup_keyMaterial, keyMaterial_storeBytes]
  case tables => rw [keySetup_tables, keyMaterial_storeBytes]

end Sys2Proof.Proofs
end

section
/-! Family 40_bus_write.md, the bus write operations. The layer first, the two ends of a data write with what each leaves; then
the data write (O3, O4, O5), the zero-length write (O1) and the address select (O2). -/

namespace Sys2Proof.Proofs

open Sys2Proof.Machine

/-! ### The end of a data write -/

/-- The end of a data write changes the register map and the cipher state and nothing else. -/
theorem finish_frame (r : WriteRun) :
    r.finish = { r.st with mem := r.finish.mem, enabled := r.finish.enabled, tables := r.finish.tables } := by
  obtain ⟨-, e⟩ | ⟨-, e⟩ := finish_cases r
  · rw [e, zeroLegacy_frame]
    rfl
  · rw [e]

/-- The legacy flag at the end of a data write, by what its bytes ask for (40_bus_write.md R106(b)). -/
theorem start_bytes_legacyReq (s : State) (a : Byte) (v : List Byte) :
    ((WriteRun.start s).bytes a v).legacyReq = true ↔ RequestsLegacy a v :=
  (bytes_legacyReq _ a v).trans (or_iff_right nofun)

/-- The completion flag at the end of a data write (40_bus_write.md R106(c)). -/
theorem start_bytes_keyComplete (s : State) (a : Byte) (v : List Byte) :
    ((WriteRun.start s).bytes a v).keyComplete = true ↔ CompletesKey a v :=
  (bytes_keyComplete _ a v).trans (or_iff_right nofun)

/-- With a key condition a data write ends with key setup, after the legacy zeroing (40_bus_write.md R107). -/
theorem exec_wr_keySetup {a : Byte} {v : List Byte} (h : RequestsLegacy a v ∨ CompletesKey a v) (s : State) :
    exec (.wr a v) s = .next ((WriteRun.start s).bytes a v).zeroLegacy.keySetup := by
  rw [← start_bytes_legacyReq s, ← start_bytes_keyComplete s] at h
  rw [exec_wr, WriteRun.finish, if_pos (Bool.or_eq_true_iff.2 h)]

/-- Without one it ends as its bytes left the state. -/
theorem exec_wr_of_no_key {a : Byte} {v : List Byte} (hl : ¬ RequestsLegacy a v) (hk : ¬ CompletesKey a v) (s : State) :
    exec (.wr a v) s = .next ((WriteRun.start s).bytes a v).st := by
  obtain request | ⟨-, e⟩ := finish_bytes_cases s a v
  · exact absurd request (not_or.2 ⟨hl, hk⟩)
  · rw [exec_wr, e]

/-! ### The registers after a data write -/

/-- A data write changes the register map and the cipher state and nothing else (40_bus_write.md R108). -/
theorem exec_wr_frame {a : Byte} {v : List Byte} {s t : State} (h : exec (.wr a v) s = .next t) :
    t = { s with mem := t.mem, enabled := t.enabled, tables := t.tables } := by
  cases h
  rw [finish_frame, bytes_frame]
  rfl

/-- Outside the key area of a legacy request, a register holds what the bytes left there. -/
theorem exec_wr_reg {a : Byte} {v : List Byte} {s t : State} (h : exec (.wr a v) s = .next t) {b : Byte}
    (hb : ¬ (RequestsLegacy a v ∧ InKeyArea b)) : t.reg b = ((WriteRun.start s).bytes a v).st.reg b := by
  cases h
  rw [finish_reg, zeroLegacy_reg_other]
  rwa [start_bytes_legacyReq]

/-- After a legacy request every register of the key area is zero (40_bus_write.md R107). -/
theorem exec_wr_reg_key {a : Byte} {v : List Byte} {s t : State} (h : exec (.wr a v) s = .next t)
    (hl : RequestsLegacy a v) {b : Byte} (hb : InKeyArea b) : t.reg b = 0x00 := by
  cases h
  rw [finish_reg, zeroLegacy_reg_key _ ((start_bytes_legacyReq s a v).2 hl) b hb]

theorem inKeyArea_target {i : Nat} (h : i < 16) : InKeyArea (target 0x40 i) := by
  rw [InKeyArea, keyArea_toNat h]
  omega

/-- A key area of zeros is a key material of zeros (10_state.md R24). -/
theorem keyMaterial_eq_zero {s : State} (h : ∀ b, InKeyArea b → s.reg b = 0x00) :
    s.keyMaterial = Vector.replicate 16 0x00 := by
  refine Vector.ext fun j hj => ?_
  rw [State.keyMaterial, Vector.getElem_ofFn, Vector.getElem_replicate]
  exact h _ (inKeyArea_target hj)

/-- While the cipher is enabled a raw byte is stored through `Dec` (40_bus_write.md R105). -/
theorem storedValue_masked {s : State} (h : s.enabled = true) (v t : Byte) :
    s.storedValue v t = dec s.activeTables v t := by
  rw [State.storedValue, if_pos h]

/-! ### The data write -/

/-- Settles O3: neither the bytes nor the end of a write leave the map and the cipher state, and a register that no byte reaches
is changed by the legacy zeroing only. -/
theorem dataWriteFrame : Obligations.DataWriteFrame := by
  intro a v s
  have run := exec_wr a v s
  refine ⟨_, run, exec_wr_frame run, fun b unreached apart => ?_⟩
  rw [exec_wr_reg run apart, bytes_reg_other _ _ _ _ unreached]
  rfl

/-- Settles O4: outside the zeroed key area the end of the write changes no register, so `bytes_reg` says what byte `i` left. Once
the cipher is cleared that is the raw byte, and before it is what the state before the write stores. -/
theorem dataWriteStoresEachByte : Obligations.DataWriteStoresEachByte := by
  intro a v s
  have run := exec_wr a v s
  refine ⟨_, run, fun i hi last apart => ?_⟩
  obtain ⟨cleared, kept⟩ := bytes_reg (WriteRun.start s) a v i hi last
  rw [exec_wr_reg run apart]
  refine ⟨fun on hd hl => ?masked, fun raw => ?raw⟩
  case masked => rw [kept ⟨hd, hl⟩]; exact storedValue_masked on _ _
  case raw =>
    by_cases hc : DisablesWithin a v (i + 1) ∨ RequestsLegacyWithin a v (i + 1)
    · exact cleared hc
    · have off : s.enabled = false := raw.resolve_right hc
      rw [kept (not_or.1 hc)]
      exact storedValue_raw off _ _

/-- Settles O5, by the two ends of a write: with a key condition it ends with key setup, and without one with the cipher as
`bytes_cleared` or `bytes_not_cleared` says. -/
theorem dataWriteEndsWithKeySetup : Obligations.DataWriteEndsWithKeySetup := by
  intro a v s
  by_cases key : RequestsLegacy a v ∨ CompletesKey a v
  · have run := exec_wr_keySetup key s
    refine ⟨_, run, fun hl => ?_, fun _ => ⟨keySetup_enabled _, keySetup_tables _⟩, fun hl hk => ?_, fun hl hk => ?_⟩
    · have zeros := fun b => exec_wr_reg_key (b := b) run hl
      exact ⟨zeros, keyMaterial_eq_zero zeros⟩
    all_goals exact absurd key (not_or.2 ⟨hl, hk⟩)
  · obtain ⟨hl, hk⟩ := not_or.1 key
    refine ⟨_, exec_wr_of_no_key hl hk s, fun h => absurd h hl, fun h => absurd h key, fun _ _ hd => ?disabling,
      fun _ _ hd => ?quiet⟩
    case disabling => exact bytes_cleared _ a v (.inl hd)
    case quiet => exact bytes_not_cleared (WriteRun.start s) a v hd hl

/-! ### The zero-length write and the address select -/

/-- Settles O1, by the event map's first row and the operation's equation (40_bus_write.md R100). -/
theorem zeroLengthWriteChangesNothing : Obligations.ZeroLengthWriteChangesNothing :=
  ⟨decodeEvent_nil, exec_wz⟩

/-- Of two address selects the last one counts. -/
theorem select_select (s : State) (a b : Byte) : (s.select a).select b = s.select b := rfl

/-- Settles O2, part by part: the event map's second row, the operation's equation, `select_select` and the read dispatch
(40_bus_write.md R102, 41_bus_read.md R131). -/
theorem addressSelectSetsOnlyTheCursor : Obligations.AddressSelectSetsOnlyTheCursor := by
  refine ⟨decodeEvent_single, exec_sel, fun a s => ?twice, fun p k => ⟨?report, ?id⟩⟩
  case twice => simp only [execAll, exec_sel, select_select]
  case report => rw [decodeEvent_read, selectRead_zero]
  case id => rw [decodeEvent_read, selectRead_id]

end Sys2Proof.Proofs
end

section
/-! Family 41_bus_read.md, the bus read operations. The layer first, what the bytes and the fields of each read are; then the paging
state machine (O13), each read alone (O9 to O12) and what the four have in common (O15). -/

namespace Sys2Proof.Proofs

open Sys2Proof.Machine

/-! ### The bytes of a read -/

theorem sentValue_true (s : State) (a : Byte) : s.sentValue true a = s.wireByte a := rfl

theorem sentValue_false (s : State) (a : Byte) : s.sentValue false a = s.reg a := rfl

@[simp] theorem select_wireByte (s : State) (a b : Byte) : (s.select a).wireByte b = s.wireByte b := rfl

theorem sentValue_eq_ite (s : State) (masked : Bool) (a : Byte) :
    s.sentValue masked a = if masked = true then s.wireByte a else s.reg a := by
  cases masked with
  | true => rw [sentValue_true, if_pos rfl]
  | false => rw [sentValue_false, if_neg Bool.false_ne_true]

@[simp] theorem reportRead_response (s : State) (len : ReportLen) (masked refresh : Bool) :
    (s.reportRead len masked refresh).response = s.window masked s.bpos 8 := rfl

theorem genericRead_response_length (s : State) (most o : Nat) :
    (s.genericRead most o).response.length = min most (256 - (s.address.toNat + o)) := by
  rw [genericRead_response, window_length, clampLength]

theorem genericRead_response_getElem (s : State) (most o j : Nat) (h : j < (s.genericRead most o).response.length) :
    (s.genericRead most o).response[j] = s.wireByte (BitVec.ofNat 8 (s.address.toNat + o + j)) := by
  simp only [genericRead_response, window_getElem, sentValue_true]

/-- Everything an identification read does, its six registers written out (41_bus_read.md R135). -/
theorem idRead_eq_regs (s : State) :
    s.idRead =
      { s with
        response := [s.reg 0xFA, s.reg 0xFB, s.reg 0xFC, s.reg 0xFD, s.reg 0xFE, s.reg 0xFF]
        newAddress := false } := by
  rw [← idRead_response, idRead_eq]

/-! ### The paging state machine -/

/-- The first read after a select starts at the selected address (41_bus_read.md R137, second row). -/
theorem exec_rdGen_select (s : State) (a : Byte) : exec .rdGen (s.select a) = .next ((s.select a).genericRead 8 0) := rfl

/-- A read after a read goes one page on, up to the saturation (41_bus_read.md R137, third row). -/
theorem exec_rdGen_genericRead (s : State) (most o : Nat) :
    exec .rdGen (s.genericRead most o) = .next (s.genericRead 8 (min (o + 8) 256)) := rfl

/-- `n` more reads after read `k` leave what read `k + n` leaves. -/
theorem execAll_rdGen (s : State) (n k : Nat) :
    execAll (List.replicate n .rdGen) (s.genericRead 8 (min (8 * k) 256)) = .next (s.genericRead 8 (min (8 * (k + n)) 256)) := by
  induction n generalizing k with
  | zero => rfl
  | succ n ih =>
    have page : min (min (8 * k) 256 + 8) 256 = min (8 * (k + 1)) 256 := by omega
    rw [List.replicate_succ, execAll, exec_rdGen_genericRead, page]
    exact (ih (k + 1)).trans (by rw [Nat.add_right_comm, Nat.add_assoc])

/-- What read `r` after a select leaves, counting reads from 0 (41_bus_read.md R137). -/
theorem execAll_select_rdGen (s : State) (a : Byte) (r : Nat) :
    execAll (.sel a :: List.replicate (r + 1) .rdGen) s = .next ((s.select a).genericRead 8 (min (8 * r) 256)) := by
  have rest := execAll_rdGen (s.select a) r 0
  rw [Nat.zero_add] at rest
  rw [List.replicate_succ, execAll, exec_sel]
  dsimp only
  rw [execAll, exec_rdGen_select]
  exact rest

/-- Settles O13: `execAll_select_rdGen` names the state, and its saturated offset answers as `8 * r` itself would (O14). -/
theorem pagedReadsWalkTheMap : Obligations.PagedReadsWalkTheMap := by
  intro s a r
  have unbounded := saturatedOffsetAnswersAsUnbounded (s.select a) 8 (8 * r)
  refine ⟨_, execAll_select_rdGen s a r, rfl, ?length, ?bytes, genericRead_eq _ _ _⟩
  case length => rw [unbounded, genericRead_response_length, select_address]
  case bytes =>
    rw [unbounded]
    intro j h
    rw [genericRead_response_getElem, select_address, select_wireByte]

/-! ### Each read alone -/

/-- Settles O9, by the read dispatch, the operation's equation with this hardware's parameters, and `reportRead_eq`
(41_bus_read.md R134). -/
theorem reportReadReturnsItsWindow : Obligations.ReportReadReturnsItsWindow := by
  refine ⟨decodeEvent_read_zero, exec_rdReport, fun s len masked refresh => ⟨_, rfl, ?length, ?bytes, ?frame⟩⟩
  case length => rw [reportRead_response, window_length]
  case bytes =>
    intro j h
    simp only [reportRead_response, window_getElem, sentValue_eq_ite]
  case frame => exact reportRead_eq s len masked refresh

/-- Settles O10, by the read dispatch and `idRead_eq_regs`. -/
theorem identificationReadIsNeverMasked : Obligations.IdentificationReadIsNeverMasked := by
  refine ⟨fun p k => ?dispatch, fun s => ?read⟩
  case dispatch => rw [decodeEvent_read, selectRead_id]
  case read => rw [exec_rdId, idRead_eq_regs]

/-- Settles O11: the page offset is `nextOffset`, and the rest is the generic read of at most 8 bytes at it (41_bus_read.md R136). -/
theorem genericReadReturnsItsPage : Obligations.GenericReadReturnsItsPage := by
  refine ⟨fun x k h0 hid => ?dispatch, fun s => ⟨_, exec_rdGen s, rfl, ?length, ?bytes, genericRead_eq _ _ _⟩⟩
  case dispatch => rw [decodeEvent_read, selectRead_paged h0 hid]
  case length => exact genericRead_response_length s 8 _
  case bytes => exact genericRead_response_getElem s 8 _

/-- Settles O12: the generic read of at most 21 bytes at offset 0 (41_bus_read.md R138). -/
theorem unpagedReadReturnsTheRest : Obligations.UnpagedReadReturnsTheRest := by
  refine ⟨fun x k h0 hid => ?dispatch, fun s => ⟨_, exec_rdGenU s, rfl, ?length, ?bytes, genericRead_eq _ _ _⟩⟩
  case dispatch => rw [decodeEvent_read, selectRead_unpaged h0 hid]
  case length => exact genericRead_response_length s 21 0
  case bytes => exact genericRead_response_getElem s 21 0

/-! ### What the four reads have in common -/

/-- `t` is `s` after a read: the new-address flag is false, and besides it at most the page offset, the window pointer, the response
and the count of refresh events differ. -/
def ReadFrame (s t : State) : Prop :=
  t = { s with
    newAddress := false, offset := t.offset, bpos := t.bpos, response := t.response, refreshPending := t.refreshPending }

theorem ReadFrame.newAddress_eq {s t : State} (h : ReadFrame s t) : t.newAddress = false := congrArg State.newAddress h

theorem ReadFrame.reg_eq {s t : State} (h : ReadFrame s t) (b : Byte) : t.reg b = s.reg b :=
  (congrArg (State.reg · b) h).trans rfl

theorem readFrame_reportRead (s : State) (len : ReportLen) (masked refresh : Bool) :
    ReadFrame s (s.reportRead len masked refresh) := reportRead_eq s len masked refresh

theorem readFrame_idRead (s : State) : ReadFrame s s.idRead := idRead_eq s

theorem readFrame_genericRead (s : State) (most o : Nat) : ReadFrame s (s.genericRead most o) := genericRead_eq s most o

theorem exec_read_frame {i : Instr} (h : i = .rdReport ∨ i = .rdId ∨ i = .rdGen ∨ i = .rdGenU) (s : State) :
    ∃ t, exec i s = .next t ∧ ReadFrame s t := by
  obtain rfl | rfl | rfl | rfl := h
  · exact ⟨_, exec_rdReport s, readFrame_reportRead s _ _ _⟩
  · exact ⟨_, exec_rdId s, readFrame_idRead s⟩
  · exact ⟨_, exec_rdGen s, readFrame_genericRead s _ _⟩
  · exact ⟨_, exec_rdGenU s, readFrame_genericRead s _ _⟩

/-- Settles O15, from the frame that every read has (41_bus_read.md R132, 20_memory.md R55). -/
theorem readsClearNewAddressAndStoreNothing : Obligations.ReadsClearNewAddressAndStoreNothing := by
  intro i s hi
  obtain ⟨t, run, frame⟩ := exec_read_frame hi s
  refine ⟨t, run, frame.newAddress_eq, frame.reg_eq, ?_⟩
  rw [frame.newAddress_eq]
  exact frame

end Sys2Proof.Proofs
end

section
/-! Family 42_cipher.md, the cipher codec. The two transforms (O16, O17) and key setup (O18); then what a data write and the first
read after an address select do to each other through the cipher state (O19, O6, O8). -/

namespace Sys2Proof.Proofs

open Sys2Proof.Machine

/-! ### The two transforms -/

/-- `Enc` takes its table entries at the index `a mod 8` and subtracts without a borrow out of the byte (42_cipher.md R160). -/
theorem enc_toNat (T : Tables) (x a : Byte) :
    (enc T x a).toNat =
      (x.toNat + 256 - (T.additive.get (tableIndex a)).toNat) % 256 ^^^ (T.mask.get (tableIndex a)).toNat := by
  have entry := (T.additive.get (tableIndex a)).isLt
  rw [enc, BitVec.toNat_xor, BitVec.toNat_sub, show 2 ^ 8 - (T.additive.get (tableIndex a)).toNat + x.toNat =
    x.toNat + 256 - (T.additive.get (tableIndex a)).toNat by omega]

/-- `Dec` adds without a carry out of the byte (42_cipher.md R161). -/
theorem dec_toNat (T : Tables) (x a : Byte) :
    (dec T x a).toNat =
      ((x.toNat ^^^ (T.mask.get (tableIndex a)).toNat) + (T.additive.get (tableIndex a)).toNat) % 256 := by
  rw [dec, BitVec.toNat_add, BitVec.toNat_xor]

/-- Settles O16: the entry at `tableIndex a` is the one at `a mod 8`. -/
theorem cipherTransformFormulas : Obligations.CipherTransformFormulas :=
  fun T x a => ⟨enc_toNat T x a, dec_toNat T x a⟩

/-- `Dec` takes the mask off first, and then adds what `Enc` subtracted. -/
theorem dec_enc (T : Tables) (x a : Byte) : dec T (enc T x a) a = x := by
  rw [dec, enc, BitVec.xor_assoc, BitVec.xor_self, BitVec.xor_zero, BitVec.sub_add_cancel]

/-- `Enc` subtracts first what `Dec` added, and then takes the mask off. -/
theorem enc_dec (T : Tables) (x a : Byte) : enc T (dec T x a) a = x := by
  rw [enc, dec, BitVec.add_sub_cancel, BitVec.xor_assoc, BitVec.xor_self, BitVec.xor_zero]

/-- Settles O17 (42_cipher.md R162). -/
theorem cipherRoundTrip : Obligations.CipherRoundTrip := fun T x a => ⟨dec_enc T x a, enc_dec T x a⟩

/-! ### Key setup -/

/-- Byte `j` of the key material is register `0x40 + j` (10_state.md R24). -/
theorem keyMaterial_getElem (s : State) {j : Nat} (h : j < 16) : s.keyMaterial[j] = s.reg (0x40 + BitVec.ofNat 8 j) :=
  Vector.getElem_ofFn h

/-- What an event decodes to has an encoding, so none decodes to key setup (30_encoding.md R76). -/
theorem decodeEvent_ne_keysetup (p : WindowPolicy) (x : Byte) (e : BusEvent) : decodeEvent p x e ≠ .ok .keysetup := by
  intro h
  cases e with
  | write d =>
    obtain ⟨-, wz⟩ | ⟨a, -, sel⟩ | ⟨a, b, v, -, -, wr⟩ := decodeEvent_write_ok h
    · cases wz
    · cases sel
    · cases wr
  | read k =>
    rw [decodeEvent_read] at h
    have encoding := (selectRead_spec p x).1
    rw [Except.ok.inj h] at encoding
    cases encoding

/-- Settles O18: the tables come from the stored key material alone (42_cipher.md R163). -/
theorem keySetupInstallsTheSchedule : Obligations.KeySetupInstallsTheSchedule :=
  ⟨decodeEvent_ne_keysetup, fun s => ⟨s.keyMaterial, fun _ h => keyMaterial_getElem s h, exec_keysetup s⟩⟩

/-! ### What disables the cipher -/

/-- Settles O19: besides `INIT` only a data write can, and of its ends (O5) only the one after a disabling byte leaves an enabled
cipher disabled (42_cipher.md R169). -/
theorem onlyDisablingWritesClearTheCipher : Obligations.OnlyDisablingWritesClearTheCipher := by
  intro i s t h on off
  obtain ⟨same, -⟩ | ⟨rfl, -⟩ | rfl | ⟨a, v, rfl⟩ := exec_cipher_cases h
  case inl => exact absurd (off.symm.trans (same.trans on)) Bool.false_ne_true
  case inr.inl => exact .inl rfl
  case inr.inr.inl => cases h; cases off
  case inr.inr.inr =>
    obtain ⟨u, run, -, keyed, -, quiet⟩ := dataWriteEndsWithKeySetup a v s
    cases h.symm.trans run
    have noKey : ¬ (RequestsLegacy a v ∨ CompletesKey a v) := fun key =>
      absurd (off.symm.trans (keyed key).1) Bool.false_ne_true
    obtain ⟨hl, hk⟩ := not_or.1 noKey
    refine .inr ⟨a, v, rfl, ?_, hl, hk⟩
    by_contra hd
    exact absurd (off.symm.trans ((quiet hl hk hd).1.trans on)) Bool.false_ne_true

/-! ### The first read after an address select -/

/-- Whatever read the dispatch selects, its response starts at the selected register, holds at least the 8 bytes of a page as far
as the map goes, and is masked at every address but 0xFA (41_bus_read.md R131, R134 to R138). -/
theorem exec_selectRead_select (p : WindowPolicy) (b : Byte) (s : State) :
    ∃ t n, exec (selectRead p b) (s.select b) = .next t ∧ ReadFrame (s.select b) t ∧ clampLength 8 b.toNat ≤ n ∧
      t.response = s.window (b != 0xFA) b.toNat n := by
  by_cases h0 : b = 0x00
  · subst h0
    rw [selectRead_zero]
    exact ⟨_, 8, exec_rdReport _, readFrame_reportRead _ _ _ _, clampLength_le _ _, rfl⟩
  by_cases hid : b = 0xFA
  · subst hid
    rw [selectRead_id]
    exact ⟨_, 6, exec_rdId _, readFrame_idRead _, Nat.le_refl 6, rfl⟩
  rw [bne_iff_ne.2 hid]
  cases p with
  | paged8 =>
    rw [selectRead_paged h0 hid]
    exact ⟨_, _, exec_rdGen_select s b, readFrame_genericRead _ _ _, Nat.le_refl _, rfl⟩
  | unpaged21 =>
    rw [selectRead_unpaged h0 hid]
    exact ⟨_, _, exec_rdGenU _, readFrame_genericRead _ _ _, min_le_min_right _ (by decide), rfl⟩

/-- A data write without a key condition, an address select and the first read after it, in one sequence. -/
theorem execAll_wr_sel_read {a : Byte} {v : List Byte} (hl : ¬ RequestsLegacy a v) (hk : ¬ CompletesKey a v) {s t : State}
    {p : WindowPolicy} {b : Byte}
    (read : exec (selectRead p b) (((WriteRun.start s).bytes a v).st.select b) = .next t) :
    execAll [.wr a v, .sel b, selectRead p b] s = .next t := by
  simp only [execAll, exec_wr_of_no_key hl hk, exec_sel, read]

/-- Settles O6: the write leaves the cipher disabled, so the window of the read is raw, and the read changes no register
(42_cipher.md R170). -/
theorem disablingWriteMakesReadsRaw : Obligations.DisablingWriteMakesReadsRaw := by
  intro a v s p b hd hl hk
  have off := (bytes_cleared (WriteRun.start s) a v (.inl hd)).1
  obtain ⟨t, n, read, frame, page, response⟩ := exec_selectRead_select p b ((WriteRun.start s).bytes a v).st
  have nonempty : 0 < n := by
    have inMap := b.isLt
    rw [clampLength] at page
    omega
  refine ⟨t, execAll_wr_sel_read hl hk read, ?nonempty, ?raw⟩
  case nonempty =>
    rw [← List.length_pos_iff, response, window_length]
    exact nonempty
  case raw =>
    intro j h
    rw [frame.reg_eq, select_reg]
    simp only [response, window_getElem, sentValue_raw _ _ _ off]

/-! ### Bytes written and read back -/

theorem disables_of_within {a : Byte} {v : List Byte} {n : Nat} : DisablesWithin a v n → Disables a v :=
  fun ⟨i, h, _, trigger⟩ => ⟨i, h, h, trigger⟩

theorem requestsLegacy_of_within {a : Byte} {v : List Byte} {n : Nat} :
    RequestsLegacyWithin a v n → RequestsLegacy a v :=
  fun ⟨i, h, _, trigger⟩ => ⟨i, h, h, trigger⟩

/-- A masked path sends back the byte that a data write stored under the same cipher state (42_cipher.md R162). -/
theorem wireByte_of_storedValue {s u : State} (on : u.enabled = s.enabled) (tables : u.tables = s.tables) {x b : Byte}
    (stored : u.reg b = s.storedValue x b) : u.wireByte b = x := by
  have active : u.activeTables = s.activeTables := by rw [State.activeTables, State.activeTables, tables]
  rw [State.wireByte, on, active, stored]
  cases hs : s.enabled with
  | false => rw [if_neg Bool.false_ne_true, storedValue_raw hs]
  | true => rw [if_pos rfl, storedValue_masked hs, enc_dec]

/-- After the bytes of a write that does not touch the cipher, each goes back over the wire as it came. -/
theorem bytes_wireByte (s : State) {a : Byte} {v : List Byte} (hd : ¬ Disables a v) (hl : ¬ RequestsLegacy a v) {i : Nat}
    (h : i < v.length) (last : v.length ≤ i + 256) : ((WriteRun.start s).bytes a v).st.wireByte (target a i) = v[i] := by
  obtain ⟨on, tables⟩ := bytes_not_cleared (WriteRun.start s) a v hd hl
  obtain ⟨-, stored⟩ := bytes_reg (WriteRun.start s) a v i h last
  exact wireByte_of_storedValue on tables (stored ⟨mt disables_of_within hd, mt requestsLegacy_of_within hl⟩)

/-- Inside the map, byte `i` of a write goes where byte `i` of a window from the same address comes from. -/
theorem ofNat_toNat_add_eq_target (a : Byte) (i : Nat) : BitVec.ofNat 8 (a.toNat + i) = target a i := by
  rw [target, BitVec.ofNat_add, BitVec.ofNat_toNat, BitVec.setWidth_eq]

/-- Settles O8: the window of the read holds the whole write, and each of its bytes comes back as it was written. -/
theorem writtenBytesAreReadBack : Obligations.WrittenBytesAreReadBack := by
  intro a v s hid hd hl hk short fits
  obtain ⟨t, n, read, -, page, response⟩ := exec_selectRead_select .paged8 a ((WriteRun.start s).bytes a v).st
  rw [bne_iff_ne.2 hid] at response
  have whole : v.length ≤ n := by
    rw [clampLength] at page
    omega
  refine ⟨t, execAll_wr_sel_read hl hk read, List.ext_getElem ?length fun i _ h => ?byte⟩
  case length => rw [response, List.length_take, window_length, Nat.min_eq_left whole]
  case byte =>
    simp only [List.getElem_take, response, window_getElem, sentValue_true, ofNat_toNat_add_eq_target]
    exact bytes_wireByte s hd hl h (by omega)

end Sys2Proof.Proofs
end

section
/-! Family 43_foreground.md, F's operations. What each leaves in the registers (O22 to O25), and the step in which F's loop runs one
(O39). -/

namespace Sys2Proof.Proofs

open Sys2Proof.Machine

/-! ### The store and the refresh event -/

/-- Settles O22, by the rules of one store (43_foreground.md R180). -/
theorem foregroundStoreIsPlain : Obligations.ForegroundStoreIsPlain :=
  fun a v s => ⟨_, exec_fgStore a v s, setReg_reg_same s a v, setReg_reg_other s a v, setReg_frame s a v⟩

/-- Settles O24, by the operation's equation: `consumeRefresh` is the update written out (43_foreground.md R184). -/
theorem refreshEventIsConsumed : Obligations.RefreshEventIsConsumed := exec_fgRefresh

/-! ### The critical section -/

/-- What follows a register's last store in a body leaves the register as that store made it. -/
theorem fgBody_reg_last (s : State) (xs : List FgAccess) (b v : Byte) {ys : List FgAccess}
    (h : ∀ w, FgAccess.store b w ∉ ys) : (s.fgBody (xs ++ .store b v :: ys)).reg b = v := by
  rw [fgBody_append, State.fgBody, fgBody_reg_other _ ys b h]
  exact setReg_reg_same _ b v

/-- Settles O23: a body changes the map alone, and `fgBody_reg_other` and `fgBody_reg_last` say what it leaves in a register
(43_foreground.md R182). -/
theorem criticalSectionRunsItsBody : Obligations.CriticalSectionRunsItsBody := by
  intro body s
  refine ⟨_, exec_fgCs body s, fgBody_frame s body, fgBody_reg_other s body, ?last⟩
  case last =>
    rintro b v xs ys rfl h
    exact fgBody_reg_last s xs b v h

/-! ### The report area -/

theorem inReportArea_iff (a : Byte) : inReportArea a = true ↔ a.toNat < Config.reportLen.bytes := decide_eq_true_iff

/-- A critical section that the spec gives F names no register outside the report area in a store (43_foreground.md R183). -/
theorem store_notMem_of_wellFormed {body : List FgAccess} (h : (FgOp.cs body).wellFormed = true) {b : Byte}
    (hb : ¬ b.toNat < Config.reportLen.bytes) (v : Byte) : FgAccess.store b v ∉ body := fun hm =>
  hb ((inReportArea_iff b).1 (List.all_eq_true.1 h _ hm))

/-- Settles O25, by cases on F's step: a store and a body reach registers of the report area alone, and a refresh event none
(43_foreground.md R183). -/
theorem foregroundKeepsToTheReportArea : Obligations.ForegroundKeepsToTheReportArea := by
  intro op s h
  cases op with
  | store a v =>
    refine ⟨_, exec_fgStore a v s, fun b hb => setReg_reg_other s a v b ?_, setReg_frame s a v⟩
    rintro rfl
    exact hb ((inReportArea_iff b).1 h)
  | cs body =>
    refine ⟨_, exec_fgCs body s, fun b hb => fgBody_reg_other s body b (store_notMem_of_wellFormed h hb), ?_⟩
    rw [fgBody_frame]
  | refresh => exact ⟨_, exec_fgRefresh s, fun b _ => consumeRefresh_reg s _ b, rfl⟩

/-! ### F's turns -/

/-- A running block with no event pending goes by the next input (60_exceptions.md R204). -/
theorem step_of_nothing_pending {s : State} (hp : s.phase = .running) (hq : s.pending = []) : step s = inputStep s := by
  rw [step, machineStep, hp, runningStep, hq]

theorem step_of_centre {s : State} {during : List BusEvent} {rest : List Input} (hp : s.phase = .running)
    (hq : s.pending = []) (hi : s.inputs = .centre during :: rest) : step s = centreTurn during rest s := by
  rw [step_of_nothing_pending hp hq, inputStep, hi]

theorem step_of_foreground {s : State} {op : FgOp} {during : List BusEvent} {rest : List Input} (hp : s.phase = .running)
    (hq : s.pending = []) (hi : s.inputs = .foreground op during :: rest) : step s = foregroundTurn op during rest s := by
  rw [step_of_nothing_pending hp hq, inputStep, hi]

/-- Events that arrive with nothing pending are all that is pending. -/
theorem arrive_of_nothing_pending {s : State} (h : s.pending = []) (es : List BusEvent) : s.arrive es = s.setPending es := by
  rw [State.arrive, h, List.nil_append]

theorem arrive_nil (s : State) : s.arrive [] = s := by
  rw [State.arrive, List.append_nil]
  rfl

/-- A foreground step with the operands of the spec answers: its operation runs whole, and what arrived meanwhile waits behind what
was pending (43_foreground.md R182). -/
theorem foregroundStep_of_wellFormed {op : FgOp} (h : op.wellFormed = true) (during : List BusEvent) (rest : List Input)
    (s : State) :
    ∃ t, exec op.toInstr (s.setInputs rest) = .next t ∧ t.pending = s.pending ∧
      foregroundStep op during rest s = .next (t.arrive during) := by
  obtain ⟨t, ht⟩ := operationsAreTotal op.toInstr (s.setInputs rest)
  refine ⟨t, ht, (exec_sameTransport ht).pending, ?_⟩
  rw [foregroundStep, if_pos h]
  simp only [ht]

/-- Settles O39: with nothing due for the centre report, F's turn is its loop's step. -/
theorem stepRunsTheForeground : Obligations.StepRunsTheForeground := by
  intro s op during rest hp hq hd hi hw
  obtain ⟨t, ht, pending, run⟩ := foregroundStep_of_wellFormed hw during rest s
  refine ⟨t, ht, ?_⟩
  rw [arrive_of_nothing_pending (pending.trans hq)] at run
  simp only [step_of_foreground hp hq hi, foregroundTurn, hd, run]
  rfl

end Sys2Proof.Proofs
end

section
/-! Family 43_foreground.md, the centre report. Its stores (O49); the step that encodes it (O52) and the step that makes a store of
it (O50); then those steps one after the other, and a report read after them (O51). -/

namespace Sys2Proof.Proofs

open Sys2Proof.Machine

/-! ### The stores of a report -/

/-- The bytes that a layout fills are the first ones of the report area (43_foreground.md R181(a)). -/
theorem filledBytes_val (l : EncoderLayout) :
    ((List.finRange 8).filter fun i => i.val < l.bytes).map Fin.val = List.range l.bytes := by
  cases l <;> decide

/-- Settles O49: the order of the stores is a permutation of the bytes that the layout fills (43_foreground.md R181(a), R185). -/
theorem centreStoresAreTheReport : Obligations.CentreStoresAreTheReport := by
  refine ⟨fun r => ⟨?stores, ?count⟩, rfl, rfl, fun s => ⟨_, exec_init s, rfl, rfl⟩⟩
  case stores =>
    rw [← filledBytes_val, List.map_map, centreStores]
    have store (i : Fin 8) : r.bytes[i] = r.bytes[i.val]?.getD 0 := by simp
    simp only [store]
    exact (centreOrder_perm r.layout).map _
  case count => cases r.layout <;> decide

/-! ### F's turns while the report is not stored -/

/-- At a turn for the report F takes the step for it that is due (43_foreground.md R185). -/
theorem step_of_centre_due {s : State} {task : CentreTask} {during : List BusEvent} {rest : List Input}
    (hp : s.phase = .running) (hq : s.pending = []) (hd : s.centreDue = some task) (hi : s.inputs = .centre during :: rest) :
    step s = centreStep during rest s task := by
  simp only [step_of_centre hp hq hi, centreTurn, hd]

/-- At a turn for its loop too, and the loop's step stays to come (43_foreground.md R185). -/
theorem step_of_foreground_due {s : State} {task : CentreTask} {op : FgOp} {during : List BusEvent} {rest : List Input}
    (hp : s.phase = .running) (hq : s.pending = []) (hd : s.centreDue = some task)
    (hi : s.inputs = .foreground op during :: rest) : step s = centreStep [] s.inputs s task := by
  simp only [step_of_foreground hp hq hi, foregroundTurn, hd, hi]

/-- The step that encodes the report, with nothing pending before it. -/
theorem centreStep_encode {s : State} (hq : s.pending = []) (during : List BusEvent) (rest : List Input) :
    centreStep during rest s .encode =
      .next { s with centre := some s.encodedCentre, pending := during, inputs := rest } := by
  rw [centreStep, arrive_of_nothing_pending (s := s.encodeCentre.setInputs rest) hq]
  rfl

/-- Settles O52: the encoding is due, and `encodedCentre` reads the mode register and the calibration cells as they are
(43_foreground.md R181(b)). -/
theorem encoderReadsTheModeRegister : Obligations.EncoderReadsTheModeRegister := by
  intro s hp hq hc
  have due : s.centreDue = some .encode := (centreDue_encode s).2 hc
  refine ⟨s.encodedCentre, rfl, rfl, fun during rest hi => ?report, fun op during rest hi => ?loop⟩
  case report => rw [step_of_centre_due hp hq due hi, centreStep_encode hq]
  case loop => rw [step_of_foreground_due hp hq due hi, centreStep_encode hq, ← hq]

/-- The step that makes a store of the report: the store runs, and it is counted. -/
theorem centreStep_store {r : CentreReport} {op : FgOp} (h : op ∈ centreStores r) (during : List BusEvent) (rest : List Input)
    (s : State) :
    ∃ t, exec op.toInstr (s.countCentre.setInputs rest) = .next t ∧ t.pending = s.pending ∧
      centreStep during rest s (.store op) = .next (t.arrive during) :=
  foregroundStep_of_wellFormed (centreStores_wellFormed r op h) during rest s.countCentre

/-- Settles O50: the store that is due is the one the count points at, and at both kinds of turn the step makes it. -/
theorem foregroundFirstStoresTheCentreReport : Obligations.ForegroundFirstStoresTheCentreReport := by
  intro s r h hp hq hc
  have due : s.centreDue = some (.store (centreStores r)[s.centreDone]) :=
    (centreDue_store s _).2 ⟨r, hc, List.getElem?_eq_getElem h⟩
  refine ⟨fun during rest hi => ?report, fun op during rest hi => ?loop⟩
  case report =>
    obtain ⟨t, ht, pending, run⟩ := centreStep_store (List.getElem_mem h) during rest s
    rw [arrive_of_nothing_pending (pending.trans hq)] at run
    exact ⟨t, ht, (step_of_centre_due hp hq due hi).trans run⟩
  case loop =>
    obtain ⟨t, ht, -, run⟩ := centreStep_store (List.getElem_mem h) [] s.inputs s
    rw [arrive_nil] at run
    exact ⟨t, ht, (step_of_foreground_due hp hq due hi).trans run⟩

/-! ### The stores one after the other -/

/-- The encoding, at a turn for the report with nothing arriving. -/
theorem step_encodeCentre {s : State} {rest : List Input} (hp : s.phase = .running) (hq : s.pending = [])
    (hc : s.centre = none) (hi : s.inputs = .centre [] :: rest) : step s = .next (s.encodeCentre.setInputs rest) := by
  rw [step_of_centre_due hp hq ((centreDue_encode s).2 hc) hi, centreStep, arrive_nil]

/-- The next store of an encoded report, at a turn for it with nothing arriving: that byte is stored and counted. -/
theorem step_of_centreOrder {s : State} {r : CentreReport} {i : Fin 8} {rest : List Input} (hp : s.phase = .running)
    (hq : s.pending = []) (hc : s.centre = some r) (hn : (centreOrder r.layout)[s.centreDone]? = some i)
    (hi : s.inputs = .centre [] :: rest) :
    step s = .next ((s.countCentre.setInputs rest).setReg (BitVec.ofNat 8 i) r.bytes[i]) := by
  have next : (centreStores r)[s.centreDone]? = some (.store (BitVec.ofNat 8 i) r.bytes[i]) := by
    rw [centreStores, List.getElem?_map, hn]
    rfl
  obtain ⟨t, ht, -, run⟩ := centreStep_store (List.mem_of_getElem? next) [] rest s
  cases ht
  rw [step_of_centre_due hp hq ((centreDue_store s _).2 ⟨r, hc, next⟩) hi, run, arrive_nil]

/-- `t` is `s` after the stores of the bytes `is` of a report, with `rest` to come. -/
structure CentreStored (r : CentreReport) (is : List (Fin 8)) (rest : List Input) (s t : State) : Prop where
  reg_stored : ∀ i ∈ is, t.reg (BitVec.ofNat 8 i) = r.bytes[i]
  reg_other : ∀ b, (∀ i ∈ is, BitVec.ofNat 8 i ≠ b) → t.reg b = s.reg b
  frame : t = { s with mem := t.mem, centreDone := s.centreDone + is.length, inputs := rest }

theorem reportAddress_toNat (i : Fin 8) : (BitVec.ofNat 8 i).toNat = i := by
  rw [BitVec.toNat_ofNat]
  omega

/-- Different bytes of the report go to different registers. -/
theorem reportAddress_injective {i j : Fin 8} (h : BitVec.ofNat 8 i = BitVec.ofNat 8 j) : i = j :=
  Fin.ext (by rw [← reportAddress_toNat i, h, reportAddress_toNat])

theorem CentreStored.none_left (r : CentreReport) (rest : List Input) (s : State) :
    CentreStored r [] rest s (s.setInputs rest) where
  reg_stored := nofun
  reg_other b _ := setInputs_reg s rest b
  frame := rfl

/-- A store before others: it stays unless one of them is of the same byte, and then it is the same store again. -/
theorem CentreStored.cons {r : CentreReport} {i : Fin 8} {is : List (Fin 8)} {rest : List Input} {s t : State}
    (h : CentreStored r is rest (s.countCentre.setReg (BitVec.ofNat 8 i) r.bytes[i]) t) :
    CentreStored r (i :: is) rest s t where
  reg_stored j hj := by
    by_cases later : j ∈ is
    · exact h.reg_stored j later
    · obtain rfl : j = i := (List.mem_cons.1 hj).resolve_right later
      rw [h.reg_other _ fun k hk e => later ((reportAddress_injective e : k = j) ▸ hk)]
      exact setReg_reg_same _ _ _
  reg_other b hb := by
    obtain ⟨first, others⟩ := List.forall_mem_cons.1 hb
    rw [h.reg_other b others, setReg_reg_other _ _ _ b first.symm, countCentre_reg]
  frame := by
    rw [List.length_cons, Nat.add_comm is.length, ← Nat.add_assoc]
    exact h.frame

theorem CentreStored.reg_filled {r : CentreReport} {rest : List Input} {s t : State}
    (h : CentreStored r (centreOrder r.layout) rest s t) {i : Fin 8} (hi : i.val < r.layout.bytes) :
    t.reg (BitVec.ofNat 8 i) = r.bytes[i] :=
  h.reg_stored i ((mem_centreOrder _ i).2 hi)

theorem CentreStored.reg_unfilled {r : CentreReport} {rest : List Input} {s t : State}
    (h : CentreStored r (centreOrder r.layout) rest s t) {b : Byte} (hb : r.layout.bytes ≤ b.toNat) :
    t.reg b = s.reg b := by
  refine h.reg_other b fun i hi e => ?_
  have filled : i.val < r.layout.bytes := (mem_centreOrder _ i).1 hi
  rw [← reportAddress_toNat i, e] at filled
  omega

/-- With a turn to come for each store that is left, and nothing between them, that many steps make those stores. -/
theorem stepTimes_centreOrder {r : CentreReport} (rest : List Input) (is : List (Fin 8)) {s : State}
    (hp : s.phase = .running) (hq : s.pending = []) (hc : s.centre = some r)
    (left : (centreOrder r.layout).drop s.centreDone = is) :
    ∃ t, stepTimes is.length (s.setInputs (List.replicate is.length (.centre []) ++ rest)) = .next t ∧
      CentreStored r is rest s t := by
  induction is generalizing s with
  | nil => exact ⟨s.setInputs rest, rfl, .none_left r rest s⟩
  | cons i is ih =>
    have due : (centreOrder r.layout)[s.centreDone]? = some i := by rw [← List.head?_drop, left]; rfl
    have left' : (centreOrder r.layout).drop (s.centreDone + 1) = is := by rw [← List.tail_drop, left]; rfl
    have run := step_of_centreOrder (s := s.setInputs (.centre [] :: (List.replicate is.length (.centre []) ++ rest)))
      hp hq hc due rfl
    obtain ⟨t, ht, stored⟩ := ih (s := s.countCentre.setReg (BitVec.ofNat 8 i) r.bytes[i]) hp hq hc left'
    refine ⟨t, ?_, stored.cons⟩
    rw [List.length_cons, List.replicate_succ, List.cons_append, stepTimes, run]
    exact ht

/-! ### A report read after the stores -/

/-- With the cipher disabled and the window at the start, a report read sends the report area raw (41_bus_read.md R134). -/
theorem reportRead_response_raw {s : State} (he : s.enabled = false) (hb : s.bpos = 0) (len : ReportLen) (masked refresh : Bool)
    (i : Fin 8) : (s.reportRead len masked refresh).response[i.val]? = some (s.reg (BitVec.ofNat 8 i)) := by
  have inside : i.val < (s.window masked s.bpos 8).length := by rw [window_length]; exact i.isLt
  rw [reportRead_response, List.getElem?_eq_getElem inside, window_getElem, sentValue_raw _ _ _ he, hb, Nat.zero_add]

/-- Settles O51: the first step encodes the report, and the others make its stores, in the order of `centreOrder`
(43_foreground.md R185). The read then sends what `CentreStored` says of each register. -/
theorem centreReportIsReadAfterItsStores : Obligations.CentreReportIsReadAfterItsStores := by
  rintro s r rest hp hq hc h0 rfl hi
  rw [List.replicate_succ, List.cons_append] at hi
  have encode := step_encodeCentre hp hq hc hi
  obtain ⟨t, ht, stored⟩ := stepTimes_centreOrder rest (centreOrder s.encodedCentre.layout) (s := s.encodeCentre) hp hq rfl
    (by rw [encodeCentre_centreDone, h0, List.drop_zero])
  rw [centreOrder_length] at ht
  have frame := stored.frame
  rw [centreOrder_length, encodeCentre_centreDone, h0, Nat.zero_add] at frame
  refine ⟨t, ?steps, fun i => stored.reg_filled, fun b => stored.reg_unfilled, frame,
    fun he hb => ⟨_, exec_rdReport t, ?length, fun i => ?bytes⟩⟩
  case steps => rw [stepTimes, encode]; exact ht
  case length => rw [reportRead_response, window_length]
  case bytes =>
    rw [reportRead_response_raw (by rw [frame]; exact he) (by rw [frame]; exact hb)]
    split
    case isTrue h => rw [stored.reg_filled h]
    case isFalse h =>
      have past_end : s.encodedCentre.layout.bytes ≤ (BitVec.ofNat 8 i.val).toNat := by rw [reportAddress_toNat]; omega
      rw [stored.reg_unfilled past_end, encodeCentre_reg]

end Sys2Proof.Proofs
end

section
/-! Family 60_exceptions.md. The bus agent's steps: the operation that one runs (O38), and what it takes from the queues (O41). Then
every kind of step on inputs the hardware can see (O37). -/

namespace Sys2Proof.Proofs

open Sys2Proof.Machine

/-! ### The bus agent's steps -/

/-- Settles O38: the operation is total (R13), so the bus step runs it and passes its response on (`step_of_pending`). -/
theorem stepRunsThePendingEvent : Obligations.StepRunsThePendingEvent :=
  fun _ _ _ _ hp hq hd => step_of_pending hp hq hd

/-- A running block with an event pending makes that event's bus step (60_exceptions.md R204). -/
theorem step_eq_busStep {s : State} {e : BusEvent} {rest : List BusEvent} (hp : s.phase = .running)
    (hq : s.pending = e :: rest) : step s = busStep e rest s := by
  rw [step, machineStep, hp, runningStep, hq]

/-- No operation stops a running block: only `INIT` writes the phase, and it leaves the block running
(70_reset_and_hazards.md R231). -/
theorem exec_keeps_running {i : Instr} {s t : State} (h : exec i s = .next t) (hp : s.phase = .running) :
    t.phase = .running := by
  cases i with
  | wr a v => rw [exec_wr_frame h]; exact hp
  | fgCs body => cases h; rw [fgBody_frame]; exact hp
  | init => cases (exec_init s).symm.trans h; rfl
  | wz | sel | rdReport | rdId | rdGen | rdGenU | keysetup | fgStore | fgRefresh => cases h; exact hp

/-- The transport's part touches no queue and not the phase. -/
theorem afterEvent_queues (s : State) (e : BusEvent) :
    (s.afterEvent e).pending = s.pending ∧ (s.afterEvent e).inputs = s.inputs ∧ (s.afterEvent e).phase = s.phase := by
  cases e <;> exact ⟨rfl, rfl, rfl⟩

/-- Settles O41: the bus step takes its event away before the operation, and neither the operation (`exec_sameTransport`) nor the
transport's part moves the queues. -/
theorem eventsAreTakenInWireOrder : Obligations.EventsAreTakenInWireOrder := by
  intro s t e rest hp hq hs
  rw [step_eq_busStep hp hq] at hs
  obtain ⟨i, u, -, hu, rfl⟩ := busStep_next _ _ _ _ hs
  obtain ⟨pending, inputs, phase⟩ := afterEvent_queues u e
  have same := exec_sameTransport hu
  exact ⟨pending.trans same.pending, inputs.trans same.inputs, phase.trans (exec_keeps_running hu hp)⟩

/-! ### Every step answers -/

/-- The bus agent's step answers when its event is one the hardware can see: it decodes (30_encoding.md R78). -/
theorem step_answers_of_pending {s : State} {e : BusEvent} {rest : List BusEvent} (hp : s.phase = .running)
    (hq : s.pending = e :: rest) (he : e.wellFormed = true) : ∃ t, step s = .next t := by
  obtain ⟨-, -, -, -, -, -, -, decodes⟩ := eventMapIsTotal
  obtain ⟨i, hi⟩ := (decodes Config.windowPolicy s.address e).1 he
  obtain ⟨t, -, run⟩ := step_of_pending hp hq hi
  exact ⟨_, run⟩

/-- The step for the centre report that is due answers: its stores are the model's own, in the report area
(43_foreground.md R181(b), R185). -/
theorem centreStep_answers {s : State} {task : CentreTask} (hd : s.centreDue = some task) (during : List BusEvent)
    (rest : List Input) : ∃ t, centreStep during rest s task = .next t := by
  cases task with
  | encode => exact ⟨_, rfl⟩
  | store op =>
    obtain ⟨r, -, next⟩ := (centreDue_store s op).1 hd
    obtain ⟨t, -, -, run⟩ := centreStep_store (List.mem_of_getElem? next) during rest s
    exact ⟨_, run⟩

/-- F's turn for the centre report answers, before the report is stored and after. -/
theorem centreTurn_answers (during : List BusEvent) (rest : List Input) (s : State) :
    ∃ t, centreTurn during rest s = .next t := by
  unfold centreTurn
  split
  · next task hd => exact centreStep_answers hd during rest
  · exact ⟨_, rfl⟩

/-- F's turn for its loop answers when the loop's step has the operands of the spec. -/
theorem foregroundTurn_answers {op : FgOp} (hw : op.wellFormed = true) (during : List BusEvent) (rest : List Input)
    (s : State) : ∃ t, foregroundTurn op during rest s = .next t := by
  unfold foregroundTurn
  split
  · next task hd => exact centreStep_answers hd [] _
  · obtain ⟨t, -, -, run⟩ := foregroundStep_of_wellFormed hw during rest s
    exact ⟨_, run⟩

/-- With nothing pending, the input at the head of the list answers. -/
theorem inputStep_answers {s : State} (h : ∀ x ∈ s.inputs, x.wellFormed = true) : ∃ t, inputStep s = .next t := by
  unfold inputStep
  split
  · exact ⟨s, rfl⟩
  · exact ⟨_, rfl⟩
  · next during rest _ => exact centreTurn_answers during rest s
  · next op during rest hi =>
    rw [hi] at h
    obtain ⟨wellFormed, -⟩ := (foreground_wellFormed_iff op during).1 (List.forall_mem_cons.1 h).1
    exact foregroundTurn_answers wellFormed during rest s

/-- Settles O37, by the phase and then by what is pending: initialisation is total (R13), a pending event decodes, and otherwise the
input list goes on. -/
theorem stepNeverStops : Obligations.StepNeverStops := by
  intro s h
  cases hp : s.phase with
  | beforeInit =>
    rw [step, machineStep, hp]
    exact operationsAreTotal .init s
  | running =>
    cases hq : s.pending with
    | nil =>
      rw [step_of_nothing_pending hp hq]
      exact inputStep_answers h.inputsOk
    | cons e rest => exact step_answers_of_pending hp hq (h.pendingOk e (hq ▸ List.mem_cons_self))

end Sys2Proof.Proofs
end

section
/-! Family 70_reset_and_hazards.md. The report area while F stores to it: F's stores as one run, and the report read after a part of
them (O26, O32). Then what `INIT` leaves (O28, O29), and the steps that are neither the bus agent's nor F's (O40). -/

namespace Sys2Proof.Proofs

open Sys2Proof.Machine

/-! ### F's stores, one step each -/

/-- One operation alone is the operation. -/
theorem execAll_singleton (i : Instr) (s : State) : execAll [i] s = exec i s := by
  obtain ⟨t, run⟩ := operationsAreTotal i s
  simp only [execAll, run]

/-- Stores of `w` from `a` on, one step each, are its ascending stores; then the rest runs. -/
theorem execAll_fgStores (a : Byte) (w : List Byte) (rest : List Instr) (s : State) :
    execAll ((w.mapIdx fun i v => .fgStore (target a i) v) ++ rest) s = execAll rest (s.storeBytes a w) := by
  induction w generalizing a s with
  | nil => rfl
  | cons v w ih =>
    simp only [List.mapIdx_cons, target_zero, target_succ, List.cons_append, execAll, exec_fgStore, State.storeBytes]
    exact ih (a + 1) (s.setReg a v)

/-- The stores of a report go to 0x00 and on (43_foreground.md R180). -/
theorem reportStores_eq (w : List Byte) : reportStores w = w.mapIdx fun i v => .fgStore (target 0x00 i) v := by
  simp only [reportStores, target, BitVec.zero_add, BitVec.ofNat_eq_ofNat]

theorem execAll_reportStores (w : List Byte) (rest : List Instr) (s : State) :
    execAll (reportStores w ++ rest) s = execAll rest (s.storeBytes 0x00 w) := by
  rw [reportStores_eq, execAll_fgStores]

/-- What the first registers hold after ascending stores from 0x00: the stored byte, or the old one past the last of them. -/
theorem storeBytes_zero_reg (s : State) {w : List Byte} (hw : w.length ≤ 256) {j : Nat} (hj : j < 256) :
    (s.storeBytes 0x00 w).reg (BitVec.ofNat 8 j) = w[j]?.getD (s.reg (BitVec.ofNat 8 j)) := by
  have distance : (BitVec.ofNat 8 j - 0x00).toNat = j := by
    rw [BitVec.ofNat_eq_ofNat, BitVec.sub_zero, BitVec.toNat_ofNat, Nat.mod_eq_of_lt hj]
  rw [storeBytes_reg s 0x00 w hw, distance]

/-! ### A report read between F's stores -/

/-- Settles O26: the stores made so far are one run of ascending stores, which moves neither the cipher nor the window, and the read
sends the area as it stands (70_reset_and_hazards.md R240). -/
theorem tornReportIsRead : Obligations.TornReportIsRead := by
  intro s w off start short
  have frame := storeBytes_frame s 0x00 w
  have off' : (s.storeBytes 0x00 w).enabled = false := by rw [frame]; exact off
  have start' : (s.storeBytes 0x00 w).bpos = 0 := by rw [frame]; exact start
  refine ⟨_, (execAll_reportStores w _ s).trans ((execAll_singleton _ _).trans (exec_rdReport _)), ?length, fun j h => ?byte⟩
  case length => rw [reportRead_response, window_length]
  case byte =>
    rw [reportRead_response, window_length] at h
    simp only [reportRead_response, window_getElem, sentValue_raw _ _ _ off', start', Nat.zero_add]
    rw [storeBytes_zero_reg s (by omega) (by omega)]
    split
    case isTrue stored => rw [List.getElem?_eq_getElem stored, Option.getD_some]
    case isFalse old => rw [List.getElem?_eq_none (Nat.le_of_not_lt old), Option.getD_none]

/-- Settles O32: both orders are O26 from reset, with no byte stored yet and with all eight (70_reset_and_hazards.md R233). -/
theorem firstReportReadInBothOrders : Obligations.FirstReportReadInBothOrders := by
  refine ⟨?before, fun w eight => ?after⟩
  case before =>
    obtain ⟨t, run, length, bytes⟩ := tornReportIsRead State.reset [] rfl rfl (Nat.zero_le _)
    refine ⟨t, (execAll_singleton .rdReport State.reset).symm.trans run, List.eq_replicate_iff.2 ⟨length, ?_⟩⟩
    intro b hb
    obtain ⟨j, h, rfl⟩ := List.getElem_of_mem hb
    rw [bytes j h, dif_neg (by exact Nat.not_lt_zero j), reset_reg, resetByte_zero (by rw [BitVec.toNat_ofNat]; omega)]
  case after =>
    obtain ⟨t, run, length, bytes⟩ := tornReportIsRead State.reset w rfl rfl eight.le
    exact ⟨t, run, List.ext_getElem (length.trans eight.symm) fun j h stored => by rw [bytes j h, dif_pos stored]⟩

/-! ### What initialisation leaves -/

/-- After `INIT` every register holds what it holds at reset, whatever it held before. -/
theorem exec_init_reg {s t : State} (h : exec .init s = .next t) (b : Byte) : t.reg b = State.reset.reg b := by
  cases (exec_init s).symm.trans h
  exact initMap_reg s b

/-- Settles O28: the registers are those of the reset map, which O30 reads range by range, and the frame is the operation's
equation (70_reset_and_hazards.md R230). -/
theorem initialisationEstablishesItsValues : Obligations.InitialisationEstablishesItsValues := by
  intro s
  obtain ⟨data, sum55, sumAA, copy, identification, zero⟩ := resetRegisterMap
  have regs := exec_init_reg (exec_init s)
  refine ⟨_, exec_init s, fun k h => (regs _).trans (data k h), (regs _).trans sum55, (regs _).trans sumAA,
    fun k h => (regs _).trans ((copy k h).trans (regs _).symm), ?identification, fun b h => (regs b).trans (zero b h), rfl⟩
  case identification =>
    simp only [regs]
    exact identification

/-- Settles O29: from a canonical map the one that `INIT` builds lists nothing (`initMap_mem`), as the reset map does. -/
theorem initialisationLeavesTheResetState : Obligations.InitialisationLeavesTheResetState := by
  intro s h
  rw [exec_init, initMap_mem s h]
  rfl

/-! ### The other steps -/

/-- Before initialisation the step runs it, whatever is pending (70_reset_and_hazards.md R231). -/
theorem step_of_beforeInit {s : State} (hp : s.phase = .beforeInit) : step s = exec .init s := by
  rw [step, machineStep, hp]

/-- An arrival is a step of its own. -/
theorem step_of_arrive {s : State} {e : BusEvent} {rest : List Input} (hp : s.phase = .running) (hq : s.pending = [])
    (hi : s.inputs = .arrive e :: rest) : step s = .next ((s.setInputs rest).arrive [e]) := by
  rw [step_of_nothing_pending hp hq, inputStep, hi]

/-- With nothing left to come the step answers the same state. -/
theorem step_of_idle {s : State} (hp : s.phase = .running) (hq : s.pending = []) (hi : s.inputs = []) : step s = .next s := by
  rw [step_of_nothing_pending hp hq, inputStep, hi]

/-- A turn for the centre report with nothing due only brings its events. -/
theorem centreTurn_of_none {s : State} (hd : s.centreDue = none) (during : List BusEvent) (rest : List Input) :
    centreTurn during rest s = .next ((s.setInputs rest).arrive during) := by
  rw [centreTurn, hd]

/-- Settles O40, one clause for each kind of step; with nothing pending before, the events that come are all that is pending. -/
theorem stepInitialisesArrivesOrIdles : Obligations.StepInitialisesArrivesOrIdles := by
  refine ⟨fun s => step_of_beforeInit, fun s e rest hp hq hi => ?arrival, fun s during rest hp hq hd hi => ?centre,
    fun s => step_of_idle⟩
  case arrival =>
    rw [step_of_arrive hp hq hi, arrive_of_nothing_pending (s := s.setInputs rest) hq]
    rfl
  case centre =>
    rw [step_of_centre hp hq hi, centreTurn_of_none hd, arrive_of_nothing_pending (s := s.setInputs rest) hq]
    rfl

end Sys2Proof.Proofs
end
